-- ==== Sys2Proof/Word.lean ====
section
/-! DEFINITION. The word types of the CHIP-8 core and their plainest arithmetic (spec 00_scope.md R10, R11). -/

namespace Sys2Proof

/-- A V register, a timer, a memory byte, an immediate kk (10_state.md R20, R30; 30_encoding.md R71). -/
abbrev Byte := BitVec 8

/-- I, PC, SP and an instruction word (10_state.md R24, R25, R28; 30_encoding.md R70). -/
abbrev Word := BitVec 16

/-- The opcode field nnn (30_encoding.md R71). -/
abbrev Addr12 := BitVec 12

/-- The index of a V register, V0 to VF (10_state.md R20). -/
abbrev Reg := Fin 16

/-- VF, the general register that is also the flag register (10_state.md R21). -/
abbrev VF : Reg := 15

/-- `nnn` is zero-extended from 12 to 16 bits wherever it is written to PC or I (30_encoding.md R73). -/
def zext16 (nnn : Addr12) : Word := nnn.zeroExtend 16

/-- A V register zero-extended to 16 bits (00_scope.md R10). -/
def zextByte (b : Byte) : Word := b.zeroExtend 16

end Sys2Proof
end

