-- ==== Sys2Proof/Machine/Flags.lean ====
section
/-! DEFINITION. Every flag that an instruction writes to VF (10_state.md R22; 42_alu.md R145). -/

namespace Sys2Proof.Machine

/-- A flag as the byte written to VF. -/
def flagByte (b : Bool) : Byte := if b then 1 else 0

/-- The carry of a sum: the 9-bit natural sum exceeds 255 (42_alu.md R145, R149). -/
def carryFlag (a b : Byte) : Byte := flagByte (decide (255 < a.toNat + b.toNat))

/-- "No borrow" of `a - b`: 1 iff a >= b (42_alu.md R145, R150, R151). -/
def noBorrowFlag (a b : Byte) : Byte := flagByte (decide (b.toNat ≤ a.toNat))

/-- The bit that a right shift by 1 shifts out, bit 0 (42_alu.md R145, R152). -/
def shiftedOutRight (a : Byte) : Byte := flagByte (a.getLsbD 0)

/-- The bit that a left shift by 1 shifts out, bit 7 (42_alu.md R145, R153). -/
def shiftedOutLeft (a : Byte) : Byte := flagByte (a.getLsbD 7)

/-- The flag of OR, AND and XOR (42_alu.md R146 to R148). -/
def logicFlag : Byte := 0

/-- The collision flag of DRW (40_display.md R102, R103). -/
def collisionFlag (collided : Bool) : Byte := flagByte collided

end Sys2Proof.Machine
end

