-- ==== Sys2Proof/Config.lean ====
section
/-! DEFINITION. What is fixed for the machine: the parameters of 00_scope.md R8, the configuration record that holds
the OPEN ones, and the one free value (the random byte of RND). -/

namespace Sys2Proof

/-- `MEM_SIZE` (00_scope.md R8; 20_memory.md R52). -/
abbrev memSize : Nat := 4096

/-- `USER_BASE` = `PC_INIT` = 0x200 (20_memory.md R55; 70_reset_and_hazards.md R251). -/
abbrev userBase : Nat := 0x200

/-- `DISPLAY_W` (00_scope.md R8). -/
abbrev displayW : Nat := 64

/-- `DISPLAY_H` (00_scope.md R8). -/
abbrev displayH : Nat := 32

/-- `VERSION`, the machine-version selector (10_state.md R33). -/
inductive Version where
  | chip8
  | superChipModern
  | superChipLegacy
  | xoChip
  deriving DecidableEq, Repr

/-- The encoding of VERSION (10_state.md R33). -/
def Version.code : Version → BitVec 2
  | .chip8 => 0
  | .superChipModern => 1
  | .superChipLegacy => 2
  | .xoChip => 3

/-- `UNKNOWN_OPCODE_POLICY` (10_state.md R34). -/
inductive UnknownOpcodePolicy where
  | skipAndReport
  | haltAndReport
  deriving DecidableEq, Repr

/-- The encoding of UNKNOWN_OPCODE_POLICY (10_state.md R34). -/
def UnknownOpcodePolicy.code : UnknownOpcodePolicy → BitVec 1
  | .skipAndReport => 0
  | .haltAndReport => 1

/-- What SHR and SHL shift: a copy of Vy, or Vx in place (42_alu.md R160). -/
inductive ShiftMode where
  | copyThenShift
  | inPlace
  deriving DecidableEq, Repr

/-- The OPEN parameter `SHIFT_MODE : VERSION → {CopyThenShift, InPlace}` as plain data, one mode for each version
(42_alu.md R160; 92_eei_decisions.md D7). -/
structure ShiftModes where
  chip8 : ShiftMode
  superChipModern : ShiftMode
  superChipLegacy : ShiftMode
  xoChip : ShiftMode
  deriving DecidableEq, Repr

/-- `SHIFT_MODE(VERSION)` (42_alu.md R160). -/
def ShiftModes.of (m : ShiftModes) : Version → ShiftMode
  | .chip8 => m.chip8
  | .superChipModern => m.superChipModern
  | .superChipLegacy => m.superChipLegacy
  | .xoChip => m.xoChip

/-- The OPEN parameters of 00_scope.md R8. They are fixed for a machine: no step and no host action changes them. The
state holds them as one record, so that a statement about every state is one about every configuration (log 1). -/
structure Config where
  /-- `STACK_LO`, the first byte of the call-stack region (20_memory.md R56). -/
  stackLo : Nat
  /-- `STACK_TOP`, the end (exclusive) of the call-stack region (20_memory.md R56). -/
  stackTop : Nat
  /-- `USER_END`, the end (exclusive) of the user program area (20_memory.md R55). -/
  userEnd : Nat
  /-- `FONT_BASE` (20_memory.md R54). -/
  fontBase : Nat
  /-- `FONT_DATA` (20_memory.md R54). -/
  fontData : List Byte
  /-- `FONT_GLYPH_STRIDE` (44_memory_index.md R183; 90_conflicts.md C3). -/
  fontStride : Nat
  /-- `SHIFT_MODE` (42_alu.md R160). -/
  shiftModes : ShiftModes
  deriving DecidableEq, Repr

/-- The standard 80-byte font that the spec's reference configuration uses (93_implementation_defined.md, end of part 2). -/
def Config.refFont : List Byte :=
  [0xF0, 0x90, 0x90, 0x90, 0xF0,  0x20, 0x60, 0x20, 0x20, 0x70,  0xF0, 0x10, 0xF0, 0x80, 0xF0,  0xF0, 0x10, 0xF0, 0x10, 0xF0] ++
  [0x90, 0x90, 0xF0, 0x10, 0x10,  0xF0, 0x80, 0xF0, 0x10, 0xF0,  0xF0, 0x80, 0xF0, 0x90, 0xF0,  0xF0, 0x10, 0x20, 0x40, 0x40] ++
  [0xF0, 0x90, 0xF0, 0x90, 0xF0,  0xF0, 0x90, 0xF0, 0x10, 0xF0,  0xF0, 0x90, 0xF0, 0x90, 0x90,  0xE0, 0x90, 0xE0, 0x90, 0xE0] ++
  [0xF0, 0x80, 0x80, 0x80, 0xF0,  0xE0, 0x90, 0x90, 0x90, 0xE0,  0xF0, 0x80, 0xF0, 0x80, 0xF0,  0xF0, 0x80, 0xF0, 0x80, 0x80]

/-- DESIGN CHOICE (log 1): the configuration of `State.reset`, the spec's reference configuration REF
(92_eei_decisions.md D33). REF gives SHIFT_MODE per vector only; the four modes here are the historical ones that
42_alu.md R160 records (log 3). -/
def Config.ref : Config where
  stackLo := 0xEA0
  stackTop := 0xF00
  userEnd := 0xEA0
  fontBase := 0x000
  fontData := Config.refFont
  fontStride := 5
  shiftModes :=
    { chip8 := .copyThenShift, superChipModern := .inPlace, superChipLegacy := .inPlace, xoChip := .copyThenShift }

/-- FREE VALUE (log 4): the byte that the n-th execution of RND draws, any value 0..255 (42_alu.md R143;
92_eei_decisions.md D21). Nothing is known of it. DESIGN CHOICE (log 4), unsafe: it is one constant, so two blocks side by
side (60_exceptions.md R234), or two runs of one block, draw the same byte where their counters are equal, which the spec
does not say. -/
opaque Config.draw : Nat → Byte

end Sys2Proof
end

