-- ==== Sys2Proof/Machine/Framebuffer.lean ====
section
/-! DEFINITION. The framebuffer: a 64 by 32 grid of cells, each lit or unlit, row-major (10_state.md R31), apart from memory
(20_memory.md R53). -/

namespace Sys2Proof.Machine

/-- 32 rows of 64 cells; `true` is lit (10_state.md R31). -/
abbrev Framebuffer := Vector (Vector Bool 64) 32

/-- All cells unlit (10_state.md R40). -/
def Framebuffer.clear : Framebuffer := Vector.replicate 32 (Vector.replicate 64 false)

/-- `Disp(x, y)`, column x and row y; there is no cell outside the grid (10_state.md R31). -/
def Framebuffer.get (f : Framebuffer) (x y : Nat) : Bool :=
  if h : x < 64 ∧ y < 32 then (f[y]'h.2)[x]'h.1 else false

/-- `Disp(x, y) <- b`. -/
def Framebuffer.set (f : Framebuffer) (x y : Nat) (b : Bool) : Framebuffer :=
  if h : x < 64 ∧ y < 32 then Vector.set f y ((f[y]'h.2).set x b h.1) h.2 else f

/-- The row-major linear index of a cell (10_state.md R31). -/
def cellIndex (x y : Nat) : Nat := y * displayW + x

end Sys2Proof.Machine
end

