-- ==== Sys2Proof/Syntax.lean ====
section
/-! DEFINITION. The instructions: one constructor for each of the 34 rows of spec/opcode_table.json, in the table's order
(30_encoding.md R75). Operand types admit exactly the values the fields of R71 can hold. -/

namespace Sys2Proof

/-- An instruction with its operand fields (30_encoding.md R71, R75). -/
inductive Instr where
  /-- `00E0` CLS (40_display.md R100). -/
  | cls
  /-- `00EE` RET (41_control.md R120). -/
  | ret
  /-- `1nnn` JP nnn (41_control.md R121). -/
  | jp (nnn : Addr12)
  /-- `2nnn` CALL nnn (41_control.md R124). -/
  | call (nnn : Addr12)
  /-- `3xkk` SE Vx, kk (41_control.md R125). -/
  | seImm (x : Reg) (kk : Byte)
  /-- `4xkk` SNE Vx, kk (41_control.md R126). -/
  | sneImm (x : Reg) (kk : Byte)
  /-- `5xy0` SE Vx, Vy (41_control.md R127). -/
  | seReg (x y : Reg)
  /-- `6xkk` LD Vx, kk (42_alu.md R140). -/
  | ldImm (x : Reg) (kk : Byte)
  /-- `7xkk` ADD Vx, kk (42_alu.md R144). -/
  | addImm (x : Reg) (kk : Byte)
  /-- `8xy0` LD Vx, Vy (42_alu.md R141). -/
  | ldReg (x y : Reg)
  /-- `8xy1` OR Vx, Vy (42_alu.md R146). -/
  | orReg (x y : Reg)
  /-- `8xy2` AND Vx, Vy (42_alu.md R147). -/
  | andReg (x y : Reg)
  /-- `8xy3` XOR Vx, Vy (42_alu.md R148). -/
  | xorReg (x y : Reg)
  /-- `8xy4` ADD Vx, Vy (42_alu.md R149). -/
  | addReg (x y : Reg)
  /-- `8xy5` SUB Vx, Vy (42_alu.md R150). -/
  | subReg (x y : Reg)
  /-- `8xy6` SHR Vx {, Vy} (42_alu.md R152). -/
  | shr (x y : Reg)
  /-- `8xy7` SUBN Vx, Vy (42_alu.md R151). -/
  | subn (x y : Reg)
  /-- `8xyE` SHL Vx {, Vy} (42_alu.md R153). -/
  | shl (x y : Reg)
  /-- `9xy0` SNE Vx, Vy (41_control.md R128). -/
  | sneReg (x y : Reg)
  /-- `Annn` LD I, nnn (44_memory_index.md R181). -/
  | ldI (nnn : Addr12)
  /-- `Bnnn` JP V0, nnn (41_control.md R122). -/
  | jpV0 (nnn : Addr12)
  /-- `Cxkk` RND Vx, kk (42_alu.md R143). -/
  | rnd (x : Reg) (kk : Byte)
  /-- `Dxyn` DRW Vx, Vy, n; n = 0 is a form of it (40_display.md R103, R104). -/
  | drw (x y : Reg) (n : Fin 16)
  /-- `Ex9E` SKP Vx (43_keypad.md R170). -/
  | skp (x : Reg)
  /-- `ExA1` SKNP Vx (43_keypad.md R171). -/
  | sknp (x : Reg)
  /-- `Fx07` LD Vx, DT (45_timers.md R200). -/
  | ldVxDT (x : Reg)
  /-- `Fx0A` LD Vx, K (43_keypad.md R172). -/
  | ldVxK (x : Reg)
  /-- `Fx15` LD DT, Vx (45_timers.md R201). -/
  | ldDTVx (x : Reg)
  /-- `Fx18` LD ST, Vx (45_timers.md R202). -/
  | ldSTVx (x : Reg)
  /-- `Fx1E` ADD I, Vx (44_memory_index.md R182). -/
  | addI (x : Reg)
  /-- `Fx29` LD F, Vx (44_memory_index.md R183). -/
  | ldF (x : Reg)
  /-- `Fx33` LD B, Vx (44_memory_index.md R184). -/
  | ldB (x : Reg)
  /-- `Fx55` LD [I], Vx (44_memory_index.md R186). -/
  | storeRegs (x : Reg)
  /-- `Fx65` LD Vx, [I] (44_memory_index.md R187). -/
  | loadRegs (x : Reg)
  deriving DecidableEq, Repr

end Sys2Proof
end

