-- ==== Sys2Proof/Decode.lean ====
section
/-! DEFINITION. The decoder, total on every word and on any bytes, rejecting by name (30_encoding.md R70 to R81), then the
encoder written from the same layouts (R72), the opcode table itself (R75, R77) and the host's entry point. -/

namespace Sys2Proof

/-- `op`, bits 15:12 (R71). -/
def fieldOp (w : Word) : BitVec 4 := w.extractLsb' 12 4

/-- `x`, bits 11:8 (R71). -/
def fieldX (w : Word) : Reg := ⟨(w.extractLsb' 8 4).toNat, (w.extractLsb' 8 4).isLt⟩

/-- `y`, bits 7:4 (R71). -/
def fieldY (w : Word) : Reg := ⟨(w.extractLsb' 4 4).toNat, (w.extractLsb' 4 4).isLt⟩

/-- `kk`, bits 7:0 (R71). -/
def fieldKK (w : Word) : Byte := w.extractLsb' 0 8

/-- `nnn`, bits 11:0 (R71). -/
def fieldNNN (w : Word) : Addr12 := w.extractLsb' 0 12

/-- `n`, bits 3:0 (R71). -/
def fieldN (w : Word) : BitVec 4 := w.extractLsb' 0 4

/-- `n` as the sprite height of DRW, an unsigned 4-bit count (R73). -/
def fieldHeight (w : Word) : Fin 16 := ⟨(fieldN w).toNat, (fieldN w).isLt⟩

/-- The 0 group: the selector is the whole word (R74, R78). -/
def decodeZero (w : Word) : Option Instr :=
  if w = 0x00E0#16 then some .cls
  else if w = 0x00EE#16 then some .ret
  else none

/-- The ALU group: the selector is the low nibble (R74, R77). -/
def decodeAlu (w : Word) : Option Instr :=
  match fieldN w with
  | 0x0#4 => some (.ldReg (fieldX w) (fieldY w))
  | 0x1#4 => some (.orReg (fieldX w) (fieldY w))
  | 0x2#4 => some (.andReg (fieldX w) (fieldY w))
  | 0x3#4 => some (.xorReg (fieldX w) (fieldY w))
  | 0x4#4 => some (.addReg (fieldX w) (fieldY w))
  | 0x5#4 => some (.subReg (fieldX w) (fieldY w))
  | 0x6#4 => some (.shr (fieldX w) (fieldY w))
  | 0x7#4 => some (.subn (fieldX w) (fieldY w))
  | 0xE#4 => some (.shl (fieldX w) (fieldY w))
  | _ => none

/-- The E group: the selector is the low byte (R74, R77). -/
def decodeKey (w : Word) : Option Instr :=
  match fieldKK w with
  | 0x9E#8 => some (.skp (fieldX w))
  | 0xA1#8 => some (.sknp (fieldX w))
  | _ => none

/-- The timer/IO group: the selector is the low byte (R74, R77). -/
def decodeMisc (w : Word) : Option Instr :=
  match fieldKK w with
  | 0x07#8 => some (.ldVxDT (fieldX w))
  | 0x0A#8 => some (.ldVxK (fieldX w))
  | 0x15#8 => some (.ldDTVx (fieldX w))
  | 0x18#8 => some (.ldSTVx (fieldX w))
  | 0x1E#8 => some (.addI (fieldX w))
  | 0x29#8 => some (.ldF (fieldX w))
  | 0x33#8 => some (.ldB (fieldX w))
  | 0x55#8 => some (.storeRegs (fieldX w))
  | 0x65#8 => some (.loadRegs (fieldX w))
  | _ => none

/-- The instruction a word stands for, or `none` for an unknown opcode (R75, R77, R81). It depends on the word alone.
The sixteen values of `op` all have an arm; the last arm is never reached. -/
def decode (w : Word) : Option Instr :=
  match fieldOp w with
  | 0x0#4 => decodeZero w
  | 0x1#4 => some (.jp (fieldNNN w))
  | 0x2#4 => some (.call (fieldNNN w))
  | 0x3#4 => some (.seImm (fieldX w) (fieldKK w))
  | 0x4#4 => some (.sneImm (fieldX w) (fieldKK w))
  | 0x5#4 => if fieldN w = 0x0#4 then some (.seReg (fieldX w) (fieldY w)) else none
  | 0x6#4 => some (.ldImm (fieldX w) (fieldKK w))
  | 0x7#4 => some (.addImm (fieldX w) (fieldKK w))
  | 0x8#4 => decodeAlu w
  | 0x9#4 => if fieldN w = 0x0#4 then some (.sneReg (fieldX w) (fieldY w)) else none
  | 0xA#4 => some (.ldI (fieldNNN w))
  | 0xB#4 => some (.jpV0 (fieldNNN w))
  | 0xC#4 => some (.rnd (fieldX w) (fieldKK w))
  | 0xD#4 => some (.drw (fieldX w) (fieldY w) (fieldHeight w))
  | 0xE#4 => decodeKey w
  | 0xF#4 => decodeMisc w
  | _ => none

/-- Two bytes as one big-endian word: the byte at the lower address is the high byte (20_memory.md R60). -/
def bigEndian (hi lo : Byte) : Word := hi ++ lo

/-- The high byte of a word (20_memory.md R60). -/
def highByte (w : Word) : Byte := w.extractLsb' 8 8

/-- The low byte of a word (20_memory.md R60). -/
def lowByte (w : Word) : Byte := w.extractLsb' 0 8

/-- Why bytes decode to no instruction. -/
inductive DecodeError where
  /-- The word matches no row of the opcode map (R80). -/
  | unknownOpcode (w : Word)
  /-- Fewer than the two bytes that every instruction has (R70). -/
  | truncated
  deriving DecidableEq, Repr

/-- The instruction at the front of a byte list and the bytes after it: every instruction is two bytes, big-endian (R70). -/
def decodeBytes : List Byte → Except DecodeError (Instr × List Byte)
  | hi :: lo :: rest =>
    match decode (bigEndian hi lo) with
    | some i => .ok (i, rest)
    | none => .error (.unknownOpcode (bigEndian hi lo))
  | _ => .error .truncated

/-- A register index as the 4 bits of an opcode field. -/
def regField (r : Fin 16) : BitVec 4 := BitVec.ofFin r

/-- Format NNN (R72). -/
def wordNNN (op : BitVec 4) (nnn : Addr12) : Word := op ++ nnn

/-- Format XKK (R72). -/
def wordXKK (op : BitVec 4) (x : Reg) (kk : Byte) : Word := op ++ regField x ++ kk

/-- Formats XY and XYN (R72). -/
def wordXYN (op : BitVec 4) (x y : Reg) (n : BitVec 4) : Word := op ++ regField x ++ regField y ++ n

/-- The word of an instruction, from the layouts of R72 and the patterns of R75. -/
def encode : Instr → Word
  | .cls => 0x00E0#16
  | .ret => 0x00EE#16
  | .jp nnn => wordNNN 0x1#4 nnn
  | .call nnn => wordNNN 0x2#4 nnn
  | .seImm x kk => wordXKK 0x3#4 x kk
  | .sneImm x kk => wordXKK 0x4#4 x kk
  | .seReg x y => wordXYN 0x5#4 x y 0x0#4
  | .ldImm x kk => wordXKK 0x6#4 x kk
  | .addImm x kk => wordXKK 0x7#4 x kk
  | .ldReg x y => wordXYN 0x8#4 x y 0x0#4
  | .orReg x y => wordXYN 0x8#4 x y 0x1#4
  | .andReg x y => wordXYN 0x8#4 x y 0x2#4
  | .xorReg x y => wordXYN 0x8#4 x y 0x3#4
  | .addReg x y => wordXYN 0x8#4 x y 0x4#4
  | .subReg x y => wordXYN 0x8#4 x y 0x5#4
  | .shr x y => wordXYN 0x8#4 x y 0x6#4
  | .subn x y => wordXYN 0x8#4 x y 0x7#4
  | .shl x y => wordXYN 0x8#4 x y 0xE#4
  | .sneReg x y => wordXYN 0x9#4 x y 0x0#4
  | .ldI nnn => wordNNN 0xA#4 nnn
  | .jpV0 nnn => wordNNN 0xB#4 nnn
  | .rnd x kk => wordXKK 0xC#4 x kk
  | .drw x y n => wordXYN 0xD#4 x y (regField n)
  | .skp x => wordXKK 0xE#4 x 0x9E#8
  | .sknp x => wordXKK 0xE#4 x 0xA1#8
  | .ldVxDT x => wordXKK 0xF#4 x 0x07#8
  | .ldVxK x => wordXKK 0xF#4 x 0x0A#8
  | .ldDTVx x => wordXKK 0xF#4 x 0x15#8
  | .ldSTVx x => wordXKK 0xF#4 x 0x18#8
  | .addI x => wordXKK 0xF#4 x 0x1E#8
  | .ldF x => wordXKK 0xF#4 x 0x29#8
  | .ldB x => wordXKK 0xF#4 x 0x33#8
  | .storeRegs x => wordXKK 0xF#4 x 0x55#8
  | .loadRegs x => wordXKK 0xF#4 x 0x65#8

/-- An instruction as it stands in memory, high byte first (R70; 20_memory.md R60). -/
def encodeBytes (i : Instr) : List Byte := [highByte (encode i), lowByte (encode i)]

/-- The mnemonic of an instruction as spec/opcode_table.json spells it (R82). -/
def Instr.mnemonic : Instr → String
  | .cls => "CLS"
  | .ret => "RET"
  | .jp _ => "JP_nnn"
  | .call _ => "CALL_nnn"
  | .seImm _ _ => "SE_Vx__kk"
  | .sneImm _ _ => "SNE_Vx__kk"
  | .seReg _ _ => "SE_Vx__Vy"
  | .ldImm _ _ => "LD_Vx__kk"
  | .addImm _ _ => "ADD_Vx__kk"
  | .ldReg _ _ => "LD_Vx__Vy"
  | .orReg _ _ => "OR_Vx__Vy"
  | .andReg _ _ => "AND_Vx__Vy"
  | .xorReg _ _ => "XOR_Vx__Vy"
  | .addReg _ _ => "ADD_Vx__Vy"
  | .subReg _ _ => "SUB_Vx__Vy"
  | .shr _ _ => "SHR_Vx____Vy"
  | .subn _ _ => "SUBN_Vx__Vy"
  | .shl _ _ => "SHL_Vx____Vy"
  | .sneReg _ _ => "SNE_Vx__Vy"
  | .ldI _ => "LD_I__nnn"
  | .jpV0 _ => "JP_V0__nnn"
  | .rnd _ _ => "RND_Vx__kk"
  | .drw _ _ _ => "DRW_Vx__Vy__n"
  | .skp _ => "SKP_Vx"
  | .sknp _ => "SKNP_Vx"
  | .ldVxDT _ => "LD_Vx__DT"
  | .ldVxK _ => "LD_Vx__K"
  | .ldDTVx _ => "LD_DT__Vx"
  | .ldSTVx _ => "LD_ST__Vx"
  | .addI _ => "ADD_I__Vx"
  | .ldF _ => "LD_F__Vx"
  | .ldB _ => "LD_B__Vx"
  | .storeRegs _ => "LD__I___Vx"
  | .loadRegs _ => "LD_Vx___I"

/-- A row of spec/opcode_table.json: a word matches it when `w AND mask = pattern` (R77). -/
structure OpcodeRow where
  mnemonic : String
  pattern : Word
  mask : Word
  deriving DecidableEq, Repr

/-- `w AND mask = match` (R77). -/
def OpcodeRow.accepts (r : OpcodeRow) (w : Word) : Bool := w &&& r.mask == r.pattern

/-- The rows of the 0 to 7 groups (R75). -/
def opcodeRowsLow : List OpcodeRow :=
  [ ⟨"CLS", 0x00E0, 0xFFFF⟩, ⟨"RET", 0x00EE, 0xFFFF⟩, ⟨"JP_nnn", 0x1000, 0xF000⟩, ⟨"CALL_nnn", 0x2000, 0xF000⟩,
    ⟨"SE_Vx__kk", 0x3000, 0xF000⟩, ⟨"SNE_Vx__kk", 0x4000, 0xF000⟩, ⟨"SE_Vx__Vy", 0x5000, 0xF00F⟩,
    ⟨"LD_Vx__kk", 0x6000, 0xF000⟩, ⟨"ADD_Vx__kk", 0x7000, 0xF000⟩ ]

/-- The rows of the ALU group (R75). -/
def opcodeRowsAlu : List OpcodeRow :=
  [ ⟨"LD_Vx__Vy", 0x8000, 0xF00F⟩, ⟨"OR_Vx__Vy", 0x8001, 0xF00F⟩, ⟨"AND_Vx__Vy", 0x8002, 0xF00F⟩,
    ⟨"XOR_Vx__Vy", 0x8003, 0xF00F⟩, ⟨"ADD_Vx__Vy", 0x8004, 0xF00F⟩, ⟨"SUB_Vx__Vy", 0x8005, 0xF00F⟩,
    ⟨"SHR_Vx____Vy", 0x8006, 0xF00F⟩, ⟨"SUBN_Vx__Vy", 0x8007, 0xF00F⟩, ⟨"SHL_Vx____Vy", 0x800E, 0xF00F⟩ ]

/-- The rows of the 9 to F groups (R75). -/
def opcodeRowsHigh : List OpcodeRow :=
  [ ⟨"SNE_Vx__Vy", 0x9000, 0xF00F⟩, ⟨"LD_I__nnn", 0xA000, 0xF000⟩, ⟨"JP_V0__nnn", 0xB000, 0xF000⟩,
    ⟨"RND_Vx__kk", 0xC000, 0xF000⟩, ⟨"DRW_Vx__Vy__n", 0xD000, 0xF000⟩, ⟨"SKP_Vx", 0xE09E, 0xF0FF⟩,
    ⟨"SKNP_Vx", 0xE0A1, 0xF0FF⟩, ⟨"LD_Vx__DT", 0xF007, 0xF0FF⟩, ⟨"LD_Vx__K", 0xF00A, 0xF0FF⟩,
    ⟨"LD_DT__Vx", 0xF015, 0xF0FF⟩, ⟨"LD_ST__Vx", 0xF018, 0xF0FF⟩, ⟨"ADD_I__Vx", 0xF01E, 0xF0FF⟩,
    ⟨"LD_F__Vx", 0xF029, 0xF0FF⟩, ⟨"LD_B__Vx", 0xF033, 0xF0FF⟩, ⟨"LD__I___Vx", 0xF055, 0xF0FF⟩,
    ⟨"LD_Vx___I", 0xF065, 0xF0FF⟩ ]

/-- The opcode map of R75, with the masks and patterns of spec/opcode_table.json. `decode` is not defined by it: that the
two agree is a statement (`Obligations.DecodeAgreesWithOpcodeTable`). -/
def opcodeTable : List OpcodeRow := opcodeRowsLow ++ opcodeRowsAlu ++ opcodeRowsHigh

/-- The word whose bits are `w`, of which the table gives `nbits`; every bit above them is 0 and an instruction has 16. -/
def tableWord (nbits w : Nat) : Word := BitVec.ofNat 16 (w % 2 ^ nbits)

/-- The instruction the decoder reads from an opcode-table word laid out in memory, high byte first. -/
def decodeTableWord (nbits w : Nat) : Option Instr :=
  match decodeBytes [highByte (tableWord nbits w), lowByte (tableWord nbits w)] with
  | .ok (i, _) => some i
  | .error _ => none

end Sys2Proof
end

