-- ==== Sys2Proof/Machine/Memory.lean ====
section
/-! DEFINITION. The one memory space (20_memory.md R52) as a list of cells in canonical form, and its reads and writes. -/

namespace Sys2Proof.Machine

/-- Memory: the bytes that differ from what an unlisted address reads as, addresses strictly rising. -/
abbrev Memory := List Host.Cell

/-- What an unlisted address reads as: the 0x00 that Init and the state before any Init give every byte (10_state.md R40;
log 7). -/
def unlistedByte : Byte := 0x00

/-- One byte of memory. -/
def Memory.read : Memory → Nat → Byte
  | [], _ => unlistedByte
  | (a', b) :: m, a => if a = a' then b else Memory.read m a

/-- Put a byte in front of the cells above it, unless it is what an unlisted address reads as. -/
def Memory.cons (a : Nat) (b : Byte) (m : Memory) : Memory := if b = unlistedByte then m else (a, b) :: m

/-- Write one byte, keeping the canonical form. -/
def Memory.write : Memory → Nat → Byte → Memory
  | [], a, b => Memory.cons a b []
  | (a', b') :: m, a, b =>
    if a < a' then Memory.cons a b ((a', b') :: m)
    else if a = a' then Memory.cons a b m
    else (a', b') :: Memory.write m a b

/-- Write a list of bytes at rising addresses from `a`. -/
def Memory.writeBytes : Memory → Nat → List Byte → Memory
  | m, _, [] => m
  | m, a, b :: bs => Memory.writeBytes (m.write a b) (a + 1) bs

/-- The memory that holds the bytes at rising addresses from `a` and is unwritten elsewhere. -/
def Memory.ofBytes : Nat → List Byte → Memory
  | _, [] => []
  | a, b :: bs => Memory.cons a b (Memory.ofBytes (a + 1) bs)

/-- `MemRead(a, 2)`, big-endian (00_scope.md R12; 20_memory.md R60). -/
def Memory.readWord (m : Memory) (a : Nat) : Word := bigEndian (m.read a) (m.read (a + 1))

/-- `MemWrite(a, 2, w)`, big-endian (00_scope.md R12; 20_memory.md R60). -/
def Memory.writeWord (m : Memory) (a : Nat) (w : Word) : Memory := m.writeBytes a [highByte w, lowByte w]

/-- Every listed address is at least `lo` and below MEM_SIZE, addresses rise strictly, and no cell holds what an unlisted
address reads as. -/
def Memory.wfFrom : Nat → Memory → Bool
  | _, [] => true
  | lo, (a, b) :: m => decide (lo ≤ a) && decide (a < memSize) && decide (b ≠ unlistedByte) && Memory.wfFrom (a + 1) m

/-- The canonical form of a memory over the addresses of 20_memory.md R52. -/
def Memory.wf (m : Memory) : Bool := Memory.wfFrom 0 m

/-- Some byte of the access set `base, ..., base + n - 1` lies outside memory; addresses are natural numbers and nothing
wraps (20_memory.md R58; 00_scope.md R11). -/
def outOfRange (base n : Nat) : Bool := decide (1 ≤ n) && decide (memSize ≤ base + n - 1)

end Sys2Proof.Machine
end

