-- ==== Sys2Proof/WellFormed.lean ====
section
/-! DEFINITION. Well-formedness. Every term of `Instr` is well formed: its operand types hold exactly the values an opcode
field can hold (30_encoding.md R71), so the checks below are about the other input that can be ill formed, the
configuration (00_scope.md R9). -/

namespace Sys2Proof

/-- The half-open ranges [a, b) and [c, d) have no address in common (an empty range overlaps nothing; log 1). -/
def disjointRanges (a b c d : Nat) : Bool :=
  decide (b ≤ a) || decide (d ≤ c) || decide (b ≤ c) || decide (d ≤ a)

/-- `STACK_LO <= STACK_TOP <= MEM_SIZE` (R9). -/
def Config.stackInMemory (c : Config) : Bool := decide (c.stackLo ≤ c.stackTop) && decide (c.stackTop ≤ memSize)

/-- `(STACK_TOP - STACK_LO)` is even (R9). -/
def Config.stackEven (c : Config) : Bool := decide ((c.stackTop - c.stackLo) % 2 = 0)

/-- `USER_BASE <= USER_END <= MEM_SIZE` (R9). -/
def Config.userInMemory (c : Config) : Bool := decide (userBase ≤ c.userEnd) && decide (c.userEnd ≤ memSize)

/-- The end (exclusive) of the font table. -/
def Config.fontEnd (c : Config) : Nat := c.fontBase + c.fontData.length

/-- `FONT_BASE + len(FONT_DATA) <= MEM_SIZE` (R9). -/
def Config.fontInMemory (c : Config) : Bool := decide (c.fontEnd ≤ memSize)

/-- The font table, the user area and the stack region do not overlap each other (R9). -/
def Config.regionsDisjoint (c : Config) : Bool :=
  disjointRanges c.fontBase c.fontEnd userBase c.userEnd &&
  disjointRanges c.fontBase c.fontEnd c.stackLo c.stackTop &&
  disjointRanges userBase c.userEnd c.stackLo c.stackTop

/-- The configuration meets all of 00_scope.md R9. -/
def Config.wf (c : Config) : Bool :=
  c.stackInMemory && c.stackEven && c.userInMemory && c.fontInMemory && c.regionsDisjoint

end Sys2Proof
end

