-- ==== Sys2Proof/Machine/State.lean ====
section
/-! DEFINITION. The state of the core as plain data (10_state.md R20 to R40), why a step can stop, and the state after
reset. -/

namespace Sys2Proof.Machine

/-- `RUN_STATE` (10_state.md R35). -/
inductive RunState where
  | uninitialized
  | running
  | paused
  | halted
  | faulted
  deriving DecidableEq, Repr

/-- The fault kinds (60_exceptions.md R220). Raising one is no stop of the model: it is a next state, `State.takeFault`. -/
inductive FaultKind where
  | outOfRange
  | stackOverflow
  | stackUnderflow
  | misalignedFetch
  | fetchOutOfRange
  deriving DecidableEq, Repr

/-- The kinds of a diagnostic event: a fault, or an unknown opcode, which is no fault (60_exceptions.md R220, R223). -/
inductive EventKind where
  | fault (k : FaultKind)
  | unknownOpcode
  deriving DecidableEq, Repr

/-- `FAULT`'s record (10_state.md R36). -/
structure FaultRecord where
  kind : FaultKind
  pc : Word
  opcode : Word
  deriving DecidableEq, Repr

/-- One entry of `EVENTS` (10_state.md R37). -/
structure Event where
  kind : EventKind
  pc : Word
  opcode : Word
  deriving DecidableEq, Repr

/-- Why the model stops on what no spec rule describes. -/
inductive Fault where
  /-- CALL or RET would reach an address outside the 4096 bytes, because SP lies outside memory. Raised by
  `State.pushReturn` and `State.popReturn`, only where the stack pointer or the configuration is one that no run reaches
  (Safety.lean's `State.Inv` rules both out). Safe (log 6). -/
  | addressOutsideMemory
  deriving DecidableEq, Repr

/-- Why a step is refused. -/
inductive Refusal where
  /-- An instruction that has no meaning yet (exec's arm). Safe. No arm uses it. -/
  | notModelled (mnemonic : String)
  /-- The configuration breaks 00_scope.md R9, which asks a model to refuse it. Raised by `cycle`. Safe. -/
  | badConfiguration
  /-- The core has no step in this run state (60_exceptions.md R241; 93_implementation_defined.md U21). Raised by `cycle`
  in Uninitialized, Paused, Halted and Faulted. Safe. -/
  | notRunning (r : RunState)
  deriving DecidableEq, Repr

/-- All state that the spec gives the block (10_state.md R40), the configuration, and the model's own draw counter. -/
structure State where
  /-- V0 to VF (R20, R21). -/
  v : Vector (BitVec 8) 16
  /-- I (R24). -/
  i : BitVec 16
  /-- PC, the address of the executing instruction (R25). -/
  pc : BitVec 16
  /-- SP, the address of the most recently pushed return address (R28). -/
  sp : BitVec 16
  /-- DT (R30). -/
  dt : BitVec 8
  /-- ST (R30). -/
  st : BitVec 8
  /-- M[0..4095] (20_memory.md R52). -/
  mem : Memory
  /-- Disp (R31). -/
  display : Framebuffer
  /-- Key[0..15], written by the host alone (R32). -/
  keys : Vector Bool 16
  /-- VERSION (R33). -/
  version : Version
  /-- UNKNOWN_OPCODE_POLICY (R34). -/
  policy : UnknownOpcodePolicy
  /-- RUN_STATE (R35). -/
  runState : RunState
  /-- FAULT (R36). -/
  fault : Option FaultRecord
  /-- EVENTS, oldest first (R37). -/
  events : List Event
  /-- ROM_SIZE (R38). -/
  romSize : Nat
  /-- The OPEN parameters of 00_scope.md R8, fixed for the machine (log 1). -/
  cfg : Config
  /-- THE MODEL'S OWN: how many bytes RND has drawn; 0 in every block before any Init, so that two blocks draw alike
  (DESIGN CHOICE, unsafe for a claim that compares two blocks; log 4). -/
  drawIndex : Nat
  deriving DecidableEq, Repr

/-- The outcome of a step or of an instruction. -/
abbrev Result := Host.Outcome State Fault Refusal

/-- The state before any Init, "created once, zero-initialized" (10_state.md R40; 70_reset_and_hazards.md R252). -/
def State.beforeInit (cfg : Config) : State where
  v := Vector.replicate 16 0
  i := 0
  pc := 0
  sp := 0
  dt := 0
  st := 0
  mem := []
  display := Framebuffer.clear
  keys := Vector.replicate 16 false
  version := .chip8
  policy := .skipAndReport
  runState := .uninitialized
  fault := none
  events := []
  romSize := 0
  cfg := cfg
  drawIndex := 0

/-- The state that Init(version, policy) leaves on a block of configuration `cfg`: memory is zeroed, then the font table is
written (70_reset_and_hazards.md R250; 10_state.md R40, R41). The draw counter is no state of the spec and goes on (log 4). -/
def State.afterInit (cfg : Config) (version : Version) (policy : UnknownOpcodePolicy) (drawIndex : Nat) : State where
  v := Vector.replicate 16 0
  i := 0
  pc := BitVec.ofNat 16 userBase
  sp := BitVec.ofNat 16 cfg.stackTop
  dt := 0
  st := 0
  mem := Memory.ofBytes cfg.fontBase cfg.fontData
  display := Framebuffer.clear
  keys := Vector.replicate 16 false
  version := version
  policy := policy
  runState := .running
  fault := none
  events := []
  romSize := 0
  cfg := cfg
  drawIndex := drawIndex

/-- Right after reset: Init is the block's only reset (70_reset_and_hazards.md R250). The configuration is REF (log 1), the
version Chip-8 (log 2), the policy the default of 10_state.md R34, and no byte has been drawn (log 4). -/
def State.reset : State := State.afterInit Config.ref .chip8 .skipAndReport 0

end Sys2Proof.Machine
end

