-- ==== Sys2Proof/Machine/Ops.lean ====
section
/-! DEFINITION. The named operations over registers, memory and the framebuffer that the instructions share, and the
taking of a fault (60_exceptions.md R224). There is no return from a fault (R225). -/

namespace Sys2Proof.Machine

/-- `V[x]` (00_scope.md R12). -/
def State.getV (s : State) (x : Reg) : Byte := s.v[x.val]

/-- `V[x] <- b` (00_scope.md R12). -/
def State.setV (s : State) (x : Reg) (b : Byte) : State := { s with v := s.v.set x.val b }

/-- `I <- w`. -/
def State.setI (s : State) (w : Word) : State := { s with i := w }

/-- `PC <- w`. -/
def State.setPC (s : State) (w : Word) : State := { s with pc := w }

/-- `SP <- w`. -/
def State.setSP (s : State) (w : Word) : State := { s with sp := w }

/-- `DT <- b`. -/
def State.setDT (s : State) (b : Byte) : State := { s with dt := b }

/-- `ST <- b`. -/
def State.setST (s : State) (b : Byte) : State := { s with st := b }

/-- Replace memory. -/
def State.setMem (s : State) (m : Memory) : State := { s with mem := m }

/-- Replace the framebuffer. -/
def State.setDisplay (s : State) (f : Framebuffer) : State := { s with display := f }

/-- One byte of memory (00_scope.md R12). -/
def State.readByte (s : State) (a : Nat) : Byte := s.mem.read a

/-- `Disp(x, y)` (00_scope.md R12). -/
def State.pixel (s : State) (x y : Nat) : Bool := s.display.get x y

/-- `Key[k]` (00_scope.md R12). -/
def State.key (s : State) (k : Fin 16) : Bool := s.keys[k.val]

/-- PC policy "normal" (00_scope.md R13). -/
def State.advance (s : State) : State := s.setPC (s.pc + 2)

/-- PC policy "skip" (00_scope.md R13). -/
def State.skipNext (s : State) : State := s.setPC (s.pc + 4)

/-- A skip instruction: 4 when the condition holds, else 2 (41_control.md R125 to R129). -/
def State.skipIf (s : State) (c : Bool) : State := if c then s.skipNext else s.advance

/-- Taking a fault: no effect of the instruction, the record and the event with the PC and the opcode of the faulting
instruction, RUN_STATE Faulted. Nothing is pushed and control goes nowhere (60_exceptions.md R224). -/
def State.takeFault (s : State) (k : FaultKind) (w : Word) : State :=
  { s with
    fault := some { kind := k, pc := s.pc, opcode := w }
    events := s.events ++ [Event.mk (.fault k) s.pc w]
    runState := .faulted }

/-- Executing an unknown opcode: always a report, then the policy: go on at the next word, or halt in place
(30_encoding.md R80). -/
def State.takeUnknown (s : State) (w : Word) : State :=
  let t := { s with events := s.events ++ [Event.mk .unknownOpcode s.pc w] }
  match s.policy with
  | .skipAndReport => t.advance
  | .haltAndReport => { t with runState := .halted }

/-- The range check of an access through I: OutOfRange before any effect if a byte of the access set of `n` bytes lies
outside memory, else the effect (20_memory.md R58; 44_memory_index.md R180). `w` is the opcode recorded. -/
def State.checkRange (s : State) (n : Nat) (w : Word) (effect : State) : Result :=
  if outOfRange s.i.toNat n then .next (s.takeFault .outOfRange w) else .next effect

/-- CALL's push of the return address and its transfer (41_control.md R124): StackOverflow when there is no room for two
bytes; the two bytes below SP otherwise. A stack pointer outside memory is no state a run reaches (log 6). -/
def State.pushReturn (s : State) (target : Word) (w : Word) : Result :=
  if s.sp.toNat < s.cfg.stackLo + 2 then .next (s.takeFault .stackOverflow w)
  else if memSize < s.sp.toNat then .fault .addressOutsideMemory
  else .next (((s.setMem (s.mem.writeWord (s.sp.toNat - 2) s.pc)).setSP (s.sp - 2)).setPC target)

/-- RET's pop of the return address and its transfer, two bytes after the address popped (41_control.md R120):
StackUnderflow when the stack is empty. -/
def State.popReturn (s : State) (w : Word) : Result :=
  if s.cfg.stackTop < s.sp.toNat + 2 then .next (s.takeFault .stackUnderflow w)
  else if memSize < s.sp.toNat + 2 then .fault .addressOutsideMemory
  else .next ((s.setSP (s.sp + 2)).setPC (s.mem.readWord s.sp.toNat + 2))

/-- The end of an ALU instruction that defines a flag: the destination first, the flag last and winning, then PC
(10_state.md R21; 42_alu.md R142). -/
def State.writeResultAndFlag (s : State) (x : Reg) (result flag : Byte) : State := ((s.setV x result).setV VF flag).advance

/-- `draw_byte()` (42_alu.md R143): the fresh byte of this execution of RND, a free value (log 4). -/
def State.drawnByte (s : State) : Byte := Config.draw s.drawIndex

/-- The next RND draws afresh (42_alu.md R143; log 4). -/
def State.nextDraw (s : State) : State := { s with drawIndex := s.drawIndex + 1 }

/-- V0, V1, ..., Vx (44_memory_index.md R186). -/
def State.regsUpTo (s : State) (x : Reg) : List Byte := s.v.toList.take (x.val + 1)

/-- V0 to Vx from the bytes at `base`, the registers above Vx as they are (44_memory_index.md R187). -/
def State.loadRegsFrom (s : State) (base : Nat) (x : Reg) : State :=
  { s with v := Vector.ofFn fun k : Fin 16 => if k ≤ x then s.mem.read (base + k.val) else s.v[k.val] }

/-- The word at PC (60_exceptions.md R221; 20_memory.md R60). -/
def State.fetchWord (s : State) : Word := s.mem.readWord s.pc.toNat

/-- The fetch checks, in the order of 60_exceptions.md R221: an odd PC first, then a word not wholly inside memory. -/
def State.fetchFault (s : State) : Option FaultKind :=
  if s.pc.toNat % 2 = 1 then some .misalignedFetch
  else if memSize ≤ s.pc.toNat + 1 then some .fetchOutOfRange
  else none

/-- A word stored where the next fetch reads it; a PC whose word is not wholly inside memory has no such place. -/
def State.placeWord (s : State) (w : Word) : State :=
  if memSize ≤ s.pc.toNat + 1 then s else s.setMem (s.mem.writeWord s.pc.toNat w)

end Sys2Proof.Machine
end

