-- ==== Sys2Proof/Machine/Operands.lean ====
section
/-! DEFINITION. The operand forms that are more than a register or an immediate (30_encoding.md R73). -/

namespace Sys2Proof.Machine

/-- `V[x] AND 0x0F`: the key that SKP and SKNP test (43_keypad.md R170, R171) and the glyph of LD F (44_memory_index.md
R183). -/
def lowNibble (b : Byte) : Fin 16 := ⟨b.toNat % 16, Nat.mod_lt _ (by decide)⟩

/-- The key whose bit SKP and SKNP test (43_keypad.md R170, R171). -/
def State.namedKeyPressed (s : State) (x : Reg) : Bool := s.key (lowNibble (s.getV x))

/-- The pressed key of the lowest index, if any key is pressed (43_keypad.md R172). -/
def State.firstKey (s : State) : Option (Fin 16) := (List.finRange 16).find? fun k => s.key k

/-- The start of a glyph in the font table, mod 2^16 (44_memory_index.md R183). -/
def State.glyphAddress (s : State) (x : Reg) : Word :=
  BitVec.ofNat 16 (s.cfg.fontBase + s.cfg.fontStride * (lowNibble (s.getV x)).val)

/-- `SHIFT_MODE(VERSION)` (42_alu.md R160). -/
def State.shiftMode (s : State) : ShiftMode := s.cfg.shiftModes.of s.version

/-- The value that SHR and SHL shift: V[y] in CopyThenShift, V[x] in InPlace (42_alu.md R152, R153). -/
def State.shiftSource (s : State) (x y : Reg) : Byte :=
  match s.shiftMode with
  | .copyThenShift => s.getV y
  | .inPlace => s.getV x

/-- The column of a sprite's origin, `V[x] AND 0x3F` (40_display.md R101). -/
def State.originX (s : State) (x : Reg) : Nat := (s.getV x &&& 0x3F#8).toNat

/-- The row of a sprite's origin, `V[y] AND 0x1F` (40_display.md R101). -/
def State.originY (s : State) (y : Reg) : Nat := (s.getV y &&& 0x1F#8).toNat

/-- The target of JP V0: `zext_16(nnn) + V[0]`, mod 2^16 (41_control.md R122). -/
def State.offsetTarget (s : State) (nnn : Addr12) : Word := zext16 nnn + zextByte (s.getV 0)

/-- The hundreds, tens and units digits of a byte (44_memory_index.md R184, R185). -/
def bcdDigits (v : Byte) : List Byte :=
  [BitVec.ofNat 8 (v.toNat / 100), BitVec.ofNat 8 (v.toNat / 10 % 10), BitVec.ofNat 8 (v.toNat % 10)]

end Sys2Proof.Machine
end

