-- ==== Sys2Proof/Machine/Alu.lean ====
section
/-! DEFINITION. Moves, RND, arithmetic, logic and shifts (42_alu.md): sources from the state before the instruction, the
destination, then the flag, then PC + 2 (R142). -/

namespace Sys2Proof.Machine

/-- LD Vx, kk (42_alu.md R140). -/
def execLdImm (x : Reg) (kk : Byte) (s : State) : Result := .next (s.setV x kk).advance

/-- LD Vx, Vy (42_alu.md R141). -/
def execLdReg (x y : Reg) (s : State) : Result := .next (s.setV x (s.getV y)).advance

/-- RND Vx, kk (42_alu.md R143): the byte drawn is a free value (log 4). -/
def execRnd (x : Reg) (kk : Byte) (s : State) : Result := .next ((s.setV x (s.drawnByte &&& kk)).nextDraw).advance

/-- ADD Vx, kk (42_alu.md R144): no flag. -/
def execAddImm (x : Reg) (kk : Byte) (s : State) : Result := .next (s.setV x (s.getV x + kk)).advance

/-- OR Vx, Vy (42_alu.md R146). -/
def execOr (x y : Reg) (s : State) : Result := .next (s.writeResultAndFlag x (s.getV x ||| s.getV y) logicFlag)

/-- AND Vx, Vy (42_alu.md R147). -/
def execAnd (x y : Reg) (s : State) : Result := .next (s.writeResultAndFlag x (s.getV x &&& s.getV y) logicFlag)

/-- XOR Vx, Vy (42_alu.md R148). -/
def execXor (x y : Reg) (s : State) : Result := .next (s.writeResultAndFlag x (s.getV x ^^^ s.getV y) logicFlag)

/-- ADD Vx, Vy (42_alu.md R149). -/
def execAddReg (x y : Reg) (s : State) : Result :=
  .next (s.writeResultAndFlag x (s.getV x + s.getV y) (carryFlag (s.getV x) (s.getV y)))

/-- SUB Vx, Vy (42_alu.md R150). -/
def execSub (x y : Reg) (s : State) : Result :=
  .next (s.writeResultAndFlag x (s.getV x - s.getV y) (noBorrowFlag (s.getV x) (s.getV y)))

/-- SUBN Vx, Vy (42_alu.md R151). -/
def execSubn (x y : Reg) (s : State) : Result :=
  .next (s.writeResultAndFlag x (s.getV y - s.getV x) (noBorrowFlag (s.getV y) (s.getV x)))

/-- SHR Vx {, Vy} (42_alu.md R152). -/
def execShr (x y : Reg) (s : State) : Result :=
  .next (s.writeResultAndFlag x (s.shiftSource x y >>> 1) (shiftedOutRight (s.shiftSource x y)))

/-- SHL Vx {, Vy} (42_alu.md R153). -/
def execShl (x y : Reg) (s : State) : Result :=
  .next (s.writeResultAndFlag x (s.shiftSource x y <<< 1) (shiftedOutLeft (s.shiftSource x y)))

end Sys2Proof.Machine
end

