-- ==== Sys2Proof/Machine/Control.lean ====
section
/-! DEFINITION. Control transfer and the register skips (41_control.md). -/

namespace Sys2Proof.Machine

/-- RET (41_control.md R120). -/
def execRet (s : State) : Result := s.popReturn (encode .ret)

/-- JP nnn (41_control.md R121). -/
def execJp (nnn : Addr12) (s : State) : Result := .next (s.setPC (zext16 nnn))

/-- CALL nnn (41_control.md R124): the address pushed is that of the CALL itself. -/
def execCall (nnn : Addr12) (s : State) : Result := s.pushReturn (zext16 nnn) (encode (.call nnn))

/-- JP V0, nnn (41_control.md R122): always V0, under every VERSION. -/
def execJpV0 (nnn : Addr12) (s : State) : Result := .next (s.setPC (s.offsetTarget nnn))

/-- SE Vx, kk (41_control.md R125). -/
def execSeImm (x : Reg) (kk : Byte) (s : State) : Result := .next (s.skipIf (s.getV x == kk))

/-- SNE Vx, kk (41_control.md R126). -/
def execSneImm (x : Reg) (kk : Byte) (s : State) : Result := .next (s.skipIf (s.getV x != kk))

/-- SE Vx, Vy (41_control.md R127). -/
def execSeReg (x y : Reg) (s : State) : Result := .next (s.skipIf (s.getV x == s.getV y))

/-- SNE Vx, Vy (41_control.md R128). -/
def execSneReg (x y : Reg) (s : State) : Result := .next (s.skipIf (s.getV x != s.getV y))

end Sys2Proof.Machine
end

