-- ==== Sys2Proof/Machine/Display.lean ====
section
/-! DEFINITION. CLS and DRW, the framebuffer's instructions (40_display.md). -/

namespace Sys2Proof.Machine

/-- CLS (40_display.md R100). -/
def execCls (s : State) : Result := .next (s.setDisplay Framebuffer.clear).advance

/-- A sprite bit of 1 lands on a cell: a lit cell is cleared, which is a collision; an unlit one is lit (R102). The flag
beside the framebuffer says whether a collision has occurred. -/
def drawCell (c : Framebuffer × Bool) (x y : Nat) : Framebuffer × Bool :=
  if c.1.get x y then (c.1.set x y false, true) else (c.1.set x y true, c.2)

/-- The columns of one sprite row, in order, ending at the right edge; bit 7 is the leftmost column (R103). -/
def drawColumns (b : Byte) (x0 y : Nat) : List Nat → Framebuffer × Bool → Framebuffer × Bool
  | [], c => c
  | k :: ks, c =>
    if displayW ≤ x0 + k then c
    else drawColumns b x0 y ks (if b.getLsbD (7 - k) then drawCell c (x0 + k) y else c)

/-- The rows of a sprite, in order, ending at the bottom edge (R103). -/
def drawRows (m : Memory) (base x0 y0 : Nat) : List Nat → Framebuffer × Bool → Framebuffer × Bool
  | [], c => c
  | r :: rs, c =>
    if displayH ≤ y0 + r then c
    else drawRows m base x0 y0 rs (drawColumns (m.read (base + r)) x0 (y0 + r) (List.range 8) c)

/-- The framebuffer after a sprite of `n` rows at I is drawn, and whether a collision occurred (R103). The origin and the
sprite are read from the state before the instruction. -/
def State.drawSprite (s : State) (x y : Reg) (n : Nat) : Framebuffer × Bool :=
  drawRows s.mem s.i.toNat (s.originX x) (s.originY y) (List.range n) (s.display, false)

/-- DRW Vx, Vy, n (40_display.md R103, R104): the check covers all n rows; VF is 1 if a collision occurred, else 0. -/
def execDrw (x y : Reg) (n : Fin 16) (s : State) : Result :=
  s.checkRange n.val (encode (.drw x y n))
    (((s.setDisplay (s.drawSprite x y n.val).1).setV VF (collisionFlag (s.drawSprite x y n.val).2)).advance)

end Sys2Proof.Machine
end

