-- ==== Sys2Proof/Machine/Index.lean ====
section
/-! DEFINITION. The index register and the memory instructions (44_memory_index.md): the access set is checked before any
effect (R180). -/

namespace Sys2Proof.Machine

/-- LD I, nnn (44_memory_index.md R181). -/
def execLdI (nnn : Addr12) (s : State) : Result := .next (s.setI (zext16 nnn)).advance

/-- ADD I, Vx (44_memory_index.md R182): VF is not changed. -/
def execAddI (x : Reg) (s : State) : Result := .next (s.setI (s.i + zextByte (s.getV x))).advance

/-- LD F, Vx (44_memory_index.md R183). -/
def execLdF (x : Reg) (s : State) : Result := .next (s.setI (s.glyphAddress x)).advance

/-- LD B, Vx (44_memory_index.md R184): I is not changed. -/
def execLdB (x : Reg) (s : State) : Result :=
  s.checkRange 3 (encode (.ldB x)) (s.setMem (s.mem.writeBytes s.i.toNat (bcdDigits (s.getV x)))).advance

/-- LD [I], Vx (44_memory_index.md R186): V0 to Vx, and I moves on by their number. -/
def execStoreRegs (x : Reg) (s : State) : Result :=
  s.checkRange (x.val + 1) (encode (.storeRegs x))
    (((s.setMem (s.mem.writeBytes s.i.toNat (s.regsUpTo x))).setI (s.i + BitVec.ofNat 16 (x.val + 1))).advance)

/-- LD Vx, [I] (44_memory_index.md R187): V0 to Vx, and I moves on by their number. -/
def execLoadRegs (x : Reg) (s : State) : Result :=
  s.checkRange (x.val + 1) (encode (.loadRegs x))
    (((s.loadRegsFrom s.i.toNat x).setI (s.i + BitVec.ofNat 16 (x.val + 1))).advance)

end Sys2Proof.Machine
end

