-- ==== Sys2Proof/Machine/Keypad.lean ====
section
/-! DEFINITION. The keypad instructions (43_keypad.md): none clears or latches a key (R173). -/

namespace Sys2Proof.Machine

/-- SKP Vx (43_keypad.md R170). -/
def execSkp (x : Reg) (s : State) : Result := .next (s.skipIf (s.namedKeyPressed x))

/-- SKNP Vx (43_keypad.md R171). -/
def execSknp (x : Reg) (s : State) : Result := .next (s.skipIf (!s.namedKeyPressed x))

/-- LD Vx, K (43_keypad.md R172): the lowest pressed key; with none pressed nothing changes, PC neither. -/
def execLdVxK (x : Reg) (s : State) : Result :=
  match s.firstKey with
  | some k => .next (s.setV x (BitVec.ofNat 8 k.val)).advance
  | none => .next s

end Sys2Proof.Machine
end

