-- ==== Sys2Proof/Machine/Timers.lean ====
section
/-! DEFINITION. The timer instructions (45_timers.md). No instruction decrements a timer; the host's tick does (R203). -/

namespace Sys2Proof.Machine

/-- LD Vx, DT (45_timers.md R200). -/
def execLdVxDT (x : Reg) (s : State) : Result := .next (s.setV x s.dt).advance

/-- LD DT, Vx (45_timers.md R201). -/
def execLdDTVx (x : Reg) (s : State) : Result := .next (s.setDT (s.getV x)).advance

/-- LD ST, Vx (45_timers.md R202). -/
def execLdSTVx (x : Reg) (s : State) : Result := .next (s.setST (s.getV x)).advance

end Sys2Proof.Machine
end

