-- ==== Sys2Proof/Machine/Cycle.lean ====
section
/-! DEFINITION. One step of the core: enabled or not, fetch, decode, execute (60_exceptions.md R221, R222, R241). -/

namespace Sys2Proof.Machine

/-- A fetched word executed: an unknown opcode is reported, an instruction has its effect (60_exceptions.md R222). -/
def executeWord (w : Word) (s : State) : Result :=
  match decode w with
  | none => .next (s.takeUnknown w)
  | some i => exec i s

/-- Fetch, with its checks made before anything is read, then decode and execute (60_exceptions.md R221, R222). A fetch
fault records the opcode 0x0000 (R224). -/
def fetchAndExecute (s : State) : Result :=
  match s.fetchFault with
  | some k => .next (s.takeFault k 0x0000)
  | none => executeWord s.fetchWord s

/-- One step: refused for a configuration that breaks 00_scope.md R9, and in every run state but Running
(60_exceptions.md R241). -/
def cycle (s : State) : Result :=
  if !s.cfg.wf then .refused .badConfiguration
  else match s.runState with
    | .running => fetchAndExecute s
    | r => .refused (.notRunning r)

end Sys2Proof.Machine
end

