-- ==== Sys2Proof/Machine/Step.lean ====
section
/-! DEFINITION. The step, and the placing of a word where it fetches. -/

namespace Sys2Proof.Machine

/-- One step of the core (60_exceptions.md R222). -/
def step (s : State) : Host.Outcome State Fault Refusal := cycle s

/-- `s` with the opcode-table word `w` stored at PC, so that the next step fetches it (log 5). -/
def State.withFetchWord (s : State) (nbits w : Nat) : State := s.placeWord (tableWord nbits w)

end Sys2Proof.Machine
end

