-- ==== Sys2Proof/Machine/HostActions.lean ====
section
/-! DEFINITION. What the host does to the core between steps, and what it sees of it (60_exceptions.md R240). No action is
part of a step (20_memory.md R50). -/

namespace Sys2Proof.Machine

/-- Why a host action is not done. -/
inductive HostError where
  /-- InstallRom beyond the user program area's capacity; nothing is copied (60_exceptions.md R220; 70_reset_and_hazards.md
  R253). -/
  | romTooLarge
  /-- The action's precondition does not hold: SetKey or InstallRom before any Init (60_exceptions.md R240;
  93_implementation_defined.md U22). -/
  | notEnabled
  /-- Init with a configuration that breaks 00_scope.md R9. -/
  | badConfiguration
  deriving DecidableEq, Repr

/-- The numeric code of a fault kind (60_exceptions.md R220). -/
def FaultKind.code : FaultKind → Nat
  | .outOfRange => 0x01
  | .stackOverflow => 0x02
  | .stackUnderflow => 0x03
  | .misalignedFetch => 0x04
  | .fetchOutOfRange => 0x05

/-- The numeric code of an event kind (60_exceptions.md R220). -/
def EventKind.code : EventKind → Nat
  | .fault k => k.code
  | .unknownOpcode => 0x10

/-- The numeric code of RomTooLarge (60_exceptions.md R220). -/
def romTooLargeCode : Nat := 0x20

/-- The host's actions other than Step (60_exceptions.md R240). -/
inductive HostAction where
  | init (version : Version) (policy : UnknownOpcodePolicy)
  | tick
  | pauseToggle
  | setKey (k : Fin 16) (b : Bool)
  | installRom (bytes : List Byte)
  deriving DecidableEq, Repr

/-- Init(version, policy), in any run state; the policy's default is SkipAndReport (70_reset_and_hazards.md R250;
10_state.md R34). -/
def hostInit (s : State) (version : Version) (policy : UnknownOpcodePolicy := .skipAndReport) : Except HostError State :=
  if s.cfg.wf then .ok (State.afterInit s.cfg version policy s.drawIndex) else .error .badConfiguration

/-- A timer's decrement by a tick, never below 0 (45_timers.md R203). -/
def countDown (t : Byte) : Byte := if t = 0 then 0 else t - 1

/-- Tick, in any run state (45_timers.md R203). -/
def hostTick (s : State) : State := (s.setDT (countDown s.dt)).setST (countDown s.st)

/-- PauseToggle; ignored in Uninitialized, Halted and Faulted (60_exceptions.md R241). -/
def hostPauseToggle (s : State) : State :=
  match s.runState with
  | .running => { s with runState := .paused }
  | .paused => { s with runState := .running }
  | .uninitialized => s
  | .halted => s
  | .faulted => s

/-- SetKey(k, b), after Init (60_exceptions.md R240, R242). -/
def hostSetKey (s : State) (k : Fin 16) (b : Bool) : Except HostError State :=
  if s.runState = .uninitialized then .error .notEnabled else .ok { s with keys := s.keys.set k.val b }

/-- InstallRom(bytes), after Init: rejected before any byte is copied, or copied whole (70_reset_and_hazards.md R253). -/
def hostInstallRom (s : State) (bytes : List Byte) : Except HostError State :=
  if s.runState = .uninitialized then .error .notEnabled
  else if s.cfg.userEnd - userBase < bytes.length then .error .romTooLarge
  else .ok { s with mem := s.mem.writeBytes userBase bytes, romSize := bytes.length }

/-- A host action on a state (60_exceptions.md R240). -/
def applyHost (a : HostAction) (s : State) : Except HostError State :=
  match a with
  | .init version policy => hostInit s version policy
  | .tick => .ok (hostTick s)
  | .pauseToggle => .ok (hostPauseToggle s)
  | .setKey k b => hostSetKey s k b
  | .installRom bytes => hostInstallRom s bytes

/-- The display view, read-only (40_display.md R106). -/
def displayView (s : State) (x y : Nat) : Bool := s.pixel x y

/-- The sound output: a tone sounds while ST > 0 (45_timers.md R204). -/
def toneOn (s : State) : Bool := decide (s.st ≠ 0)

/-- The optional trace record of a step: address, raw opcode, and the decoded mnemonic and operands, which are the
instruction itself (60_exceptions.md R235). -/
structure TraceRecord where
  pc : Word
  opcode : Word
  instr : Option Instr
  deriving DecidableEq, Repr

/-- What the trace says of the instruction at PC: none where its fetch faults (R235; log 11). -/
def State.fetchedRecord (s : State) : Option TraceRecord :=
  match s.fetchFault with
  | some _ => none
  | none => some { pc := s.pc, opcode := s.fetchWord, instr := decode s.fetchWord }

/-- The trace record of the step from `s`, "per executed instruction": none where no step is taken, so in every run state but
Running, and none where nothing is fetched. It has no effect on the state (60_exceptions.md R235, R240; log 11). -/
def traceRecord (s : State) : Option TraceRecord :=
  match step s with
  | .next _ => s.fetchedRecord
  | .fault _ => none
  | .refused _ => none

end Sys2Proof.Machine
end

