-- ==== Sys2Proof/Safety.lean ====
section
/-! DEFINITION. What claims are stated in: the invariant of the states that a run reaches, the transitions of the block
under its host, and the parts of the state that a statement says are unchanged. -/

namespace Sys2Proof.Machine

/-- The stack pointer is inside the stack region and on a slot of it: SP moves in steps of 2 from STACK_TOP (10_state.md
R28; 20_memory.md R56). -/
def State.stackOk (s : State) : Prop :=
  s.cfg.stackLo ≤ s.sp.toNat ∧ s.sp.toNat ≤ s.cfg.stackTop ∧ (s.cfg.stackTop - s.sp.toNat) % 2 = 0

/-- The invariant of the states that a block with a legal configuration reaches. -/
structure State.Inv (s : State) : Prop where
  /-- The configuration meets 00_scope.md R9. -/
  config : s.cfg.wf = true
  /-- Memory is in canonical form and lies inside the 4096 bytes (20_memory.md R52). -/
  memory : s.mem.wf = true
  /-- After Init the stack pointer is in the stack region (10_state.md R28). -/
  stack : s.runState ≠ .uninitialized → s.stackOk
  /-- FAULT is set exactly in Faulted (10_state.md R36; 60_exceptions.md R223, R225). -/
  faultRecord : s.runState = .faulted ↔ s.fault.isSome = true
  /-- The recorded fault is also an event (60_exceptions.md R224). -/
  faultEvent : ∀ f, s.fault = some f → Event.mk (.fault f.kind) f.pc f.opcode ∈ s.events
  /-- Halted is reached only under HaltAndReport (30_encoding.md R80). -/
  halted : s.runState = .halted → s.policy = .haltAndReport
  /-- An installed ROM fits the user program area (70_reset_and_hazards.md R253). -/
  rom : s.romSize ≤ s.cfg.userEnd - userBase

/-- One transition of the block under its host: a step, or a host action between steps, in any order (60_exceptions.md
R240; 45_timers.md R203). -/
inductive Transition : State → State → Prop where
  | step {s t : State} (h : Sys2Proof.Machine.step s = .next t) : Transition s t
  | host {s t : State} (a : HostAction) (h : applyHost a s = .ok t) : Transition s t

/-- The states that a block of configuration `cfg` reaches from its state before any Init (70_reset_and_hazards.md R252). -/
inductive Reachable (cfg : Config) : State → Prop where
  | start : Reachable cfg (State.beforeInit cfg)
  | next {s t : State} (hs : Reachable cfg s) (ht : Transition s t) : Reachable cfg t

/-- The state no instruction that completes without a fault writes: keys, configuration, lifecycle (10_state.md R32 to
R38). -/
def State.sameControl (s t : State) : Prop :=
  t.keys = s.keys ∧ t.version = s.version ∧ t.policy = s.policy ∧ t.runState = s.runState ∧ t.fault = s.fault ∧
  t.events = s.events ∧ t.romSize = s.romSize ∧ t.cfg = s.cfg

/-- Every V register but those of `xs` is unchanged. -/
def State.sameRegsBut (s t : State) (xs : List Reg) : Prop := ∀ r, r ∉ xs → t.getV r = s.getV r

/-- Every byte of memory but the `n` bytes from `base` reads as before. -/
def State.sameBytesBut (s t : State) (base n : Nat) : Prop := ∀ a, a < base ∨ base + n ≤ a → t.readByte a = s.readByte a

/-- Every byte of memory reads as before. -/
def State.sameBytes (s t : State) : Prop := ∀ a, t.readByte a = s.readByte a

/-- The V registers that an instruction writes: its destination, VF where it defines a flag, V0 to Vx for a register load
(10_state.md R20, R22). -/
def writtenRegs : Instr → List Reg
  | .cls => []
  | .ret => []
  | .jp _ => []
  | .call _ => []
  | .seImm _ _ => []
  | .sneImm _ _ => []
  | .seReg _ _ => []
  | .ldImm x _ => [x]
  | .addImm x _ => [x]
  | .ldReg x _ => [x]
  | .orReg x _ => [x, VF]
  | .andReg x _ => [x, VF]
  | .xorReg x _ => [x, VF]
  | .addReg x _ => [x, VF]
  | .subReg x _ => [x, VF]
  | .shr x _ => [x, VF]
  | .subn x _ => [x, VF]
  | .shl x _ => [x, VF]
  | .sneReg _ _ => []
  | .ldI _ => []
  | .jpV0 _ => []
  | .rnd x _ => [x]
  | .drw _ _ _ => [VF]
  | .skp _ => []
  | .sknp _ => []
  | .ldVxDT x => [x]
  | .ldVxK x => [x]
  | .ldDTVx _ => []
  | .ldSTVx _ => []
  | .addI _ => []
  | .ldF _ => []
  | .ldB _ => []
  | .storeRegs _ => []
  | .loadRegs x => (List.finRange 16).filter (· ≤ x)

/-- The instruction is a skip and its condition holds (41_control.md R125 to R128; 43_keypad.md R170, R171). -/
def State.skipTaken (s : State) (i : Instr) : Prop :=
  (∃ x kk, i = .seImm x kk ∧ s.getV x = kk) ∨ (∃ x kk, i = .sneImm x kk ∧ s.getV x ≠ kk) ∨
  (∃ x y, i = .seReg x y ∧ s.getV x = s.getV y) ∨ (∃ x y, i = .sneReg x y ∧ s.getV x ≠ s.getV y) ∨
  (∃ x, ∃ k : Fin 16, i = .skp x ∧ k.val = (s.getV x).toNat % 16 ∧ s.key k = true) ∨
  (∃ x, ∃ k : Fin 16, i = .sknp x ∧ k.val = (s.getV x).toNat % 16 ∧ s.key k = false)

/-- The instruction is LD Vx, K and no key is pressed (43_keypad.md R172). -/
def State.waitsForKey (s : State) (i : Instr) : Prop := (∃ x, i = .ldVxK x) ∧ ∀ k, s.key k = false

/-- The sprite of `DRW Vx, Vy, n` has a 1 on the cell in column p and row q: the origin is (V[x] mod 64, V[y] mod 32), row r
of the sprite is the byte at I + r, bit 7 is its leftmost column, and what lies past the right or bottom edge is clipped
(40_display.md R101, R103). -/
def State.spriteCovers (s : State) (x y : Reg) (n p q : Nat) : Prop :=
  p < 64 ∧ q < 32 ∧ (s.getV x).toNat % 64 ≤ p ∧ p < (s.getV x).toNat % 64 + 8 ∧
  (s.getV y).toNat % 32 ≤ q ∧ q < (s.getV y).toNat % 32 + n ∧
  (s.readByte (s.i.toNat + (q - (s.getV y).toNat % 32))).getLsbD (7 - (p - (s.getV x).toNat % 64)) = true

end Sys2Proof.Machine
end

