-- ==== Sys2Proof/Certificates/Slice0/Obligations.lean ====
section
/-! DEFINITION. The statements for the provers. In a frame written `t = { s with f := ..., pc := ... }` every field that is
not named, all of memory among them, is as in `s`; where memory is named, the statement says byte by byte what of it is
unchanged. -/

open Sys2Proof Sys2Proof.Machine

/-! ## Encoding -/

/-- Decoding the word of any instruction gives the instruction back, with every operand at every value (30_encoding.md R72,
R75). -/
def Obligations.DecodeInvertsEncode : Prop := ∀ i : Instr, decode (encode i) = some i

/-- A word that decodes to an instruction is that instruction's one word: no bit is a don't-care bit (30_encoding.md R77). -/
def Obligations.EncodeInvertsDecode : Prop := ∀ (w : Word) (i : Instr), decode w = some i → encode i = w

/-- The decoder agrees with the masks and patterns of spec/opcode_table.json: it gives the instruction of the row that
matches, gives none where no row matches, and no word matches two rows (30_encoding.md R75, R77). -/
def Obligations.DecodeAgreesWithOpcodeTable : Prop :=
  (∀ (w : Word) (i : Instr), decode w = some i → ∃ r ∈ opcodeTable, w &&& r.mask = r.pattern ∧ r.mnemonic = i.mnemonic) ∧
  (∀ w : Word, decode w = none → ∀ r ∈ opcodeTable, w &&& r.mask ≠ r.pattern) ∧
  (∀ w : Word, ∀ r ∈ opcodeTable, ∀ r' ∈ opcodeTable,
    w &&& r.mask = r.pattern → w &&& r'.mask = r'.pattern → r = r')

/-- The 0 group (30_encoding.md R78). -/
def Obligations.ZeroGroupHasOnlyClsAndRet : Prop :=
  decode 0x00E0 = some .cls ∧ decode 0x00EE = some .ret ∧
  ∀ w : Word, w.toNat < 0x1000 → w ≠ 0x00E0 → w ≠ 0x00EE → decode w = none

/-- Which words of each group are unknown (30_encoding.md R77). -/
def Obligations.UnknownWordsByGroup : Prop :=
  ∀ w : Word,
    (w.toNat / 0x1000 = 5 ∨ w.toNat / 0x1000 = 9 → ((decode w).isSome = true ↔ w.toNat % 16 = 0)) ∧
    (w.toNat / 0x1000 = 8 → ((decode w).isSome = true ↔ w.toNat % 16 ≤ 7 ∨ w.toNat % 16 = 0xE)) ∧
    (w.toNat / 0x1000 = 0xE → ((decode w).isSome = true ↔ w.toNat % 256 = 0x9E ∨ w.toNat % 256 = 0xA1)) ∧
    (w.toNat / 0x1000 = 0xF → ((decode w).isSome = true ↔
      w.toNat % 256 ∈ [0x07, 0x0A, 0x15, 0x18, 0x1E, 0x29, 0x33, 0x55, 0x65])) ∧
    (w.toNat / 0x1000 ∈ [1, 2, 3, 4, 6, 7, 0xA, 0xB, 0xC, 0xD] → (decode w).isSome = true)

/-- The extension encodings are unknown, but for Dxy0, a DRW of height 0 (30_encoding.md R79). A digit that a spelling
leaves open takes every value; `F000 nnnn` is unknown by its first word. -/
def Obligations.ExtensionEncodingsAreUnknown : Prop :=
  (∀ w : Word, 0x00C0 ≤ w.toNat → w.toNat < 0x00E0 → decode w = none) ∧
  (∀ w ∈ [0x00FB#16, 0x00FC, 0x00FD, 0x00FE, 0x00FF, 0xF000, 0xF002], decode w = none) ∧
  (∀ x : Reg, ∀ kk ∈ [0x30#8, 0x75, 0x85, 0x01, 0x3A], decode (wordXKK 0xF#4 x kk) = none) ∧
  (∀ x y : Reg, decode (wordXYN 0x5#4 x y 0x2#4) = none ∧ decode (wordXYN 0x5#4 x y 0x3#4) = none) ∧
  (∀ x y : Reg, decode (wordXYN 0xD#4 x y 0x0#4) = some (.drw x y 0))

/-- The words of the spec's worked program (30_encoding.md R76) and one word of every other family. -/
def Obligations.SampleWordsDecode : Prop :=
  decode 0xA20A = some (.ldI 0x20A) ∧ decode 0x6100 = some (.ldImm 1 0x00) ∧ decode 0x620A = some (.ldImm 2 0x0A) ∧
  decode 0xD125 = some (.drw 1 2 5) ∧ decode 0x1208 = some (.jp 0x208) ∧ decode 0x00E0 = some .cls ∧
  decode 0x8126 = some (.shr 1 2) ∧ decode 0xE29E = some (.skp 2) ∧ decode 0xF315 = some (.ldDTVx 3)

/-! ## The step -/

/-- A step runs the decoded instruction: in Running, under a legal configuration, with the two bytes at an even PC inside
memory that decode to `i`, the step is `i`'s effect on that very state; fetch does not advance PC (60_exceptions.md R222;
10_state.md R25; 20_memory.md R60). -/
def Obligations.StepRunsDecodedInstruction : Prop :=
  ∀ (s : State) (i : Instr), s.cfg.wf = true → s.runState = .running → s.pc.toNat % 2 = 0 → s.pc.toNat + 1 < 4096 →
    decode (s.readByte s.pc.toNat ++ s.readByte (s.pc.toNat + 1)) = some i → step s = exec i s

/-- The fetch checks, in their order, and the fault each takes with the opcode 0x0000; past them, the word that is executed
is the big-endian word at PC (60_exceptions.md R221, R224). -/
def Obligations.FetchChecksTakeTheirFault : Prop :=
  ∀ s : State, s.cfg.wf = true → s.runState = .running →
    (s.pc.toNat % 2 = 1 → step s = .next { s with
      runState := .faulted
      fault := some ⟨.misalignedFetch, s.pc, 0x0000⟩
      events := s.events ++ [⟨.fault .misalignedFetch, s.pc, 0x0000⟩] }) ∧
    (s.pc.toNat % 2 = 0 → 4096 ≤ s.pc.toNat + 1 → step s = .next { s with
      runState := .faulted
      fault := some ⟨.fetchOutOfRange, s.pc, 0x0000⟩
      events := s.events ++ [⟨.fault .fetchOutOfRange, s.pc, 0x0000⟩] }) ∧
    (s.pc.toNat % 2 = 0 → s.pc.toNat + 1 < 4096 →
      step s = executeWord (s.readByte s.pc.toNat ++ s.readByte (s.pc.toNat + 1)) s)

/-- An unknown opcode is always reported, with its address and word; then the policy decides between going on and halting
in place, and nothing else changes, FAULT neither (30_encoding.md R80). -/
def Obligations.UnknownOpcodeIsReported : Prop :=
  ∀ (s : State) (w : Word), s.cfg.wf = true → s.runState = .running → s.pc.toNat % 2 = 0 → s.pc.toNat + 1 < 4096 →
    w = s.readByte s.pc.toNat ++ s.readByte (s.pc.toNat + 1) → decode w = none →
    (s.policy = .skipAndReport → step s = .next { s with
      events := s.events ++ [⟨.unknownOpcode, s.pc, w⟩], pc := s.pc + 2 }) ∧
    (s.policy = .haltAndReport → step s = .next { s with
      events := s.events ++ [⟨.unknownOpcode, s.pc, w⟩], runState := .halted })

/-- The core steps only in Running; PauseToggle moves between Running and Paused, changes nothing else, and is ignored in
the other states (60_exceptions.md R241). -/
def Obligations.StepsOnlyInRunning : Prop :=
  (∀ s : State, s.runState ≠ .running → ∀ t, step s ≠ .next t) ∧
  (∀ s : State, s.cfg.wf = true → s.runState ≠ .running → step s = .refused (.notRunning s.runState)) ∧
  (∀ s : State,
    (s.runState = .running → applyHost .pauseToggle s = .ok { s with runState := .paused }) ∧
    (s.runState = .paused → applyHost .pauseToggle s = .ok { s with runState := .running }) ∧
    (s.runState ∈ [.uninitialized, .halted, .faulted] → applyHost .pauseToggle s = .ok s))

/-- The legal configurations are those of 00_scope.md R9, "overlap" read as "have an address in common"; any other is
refused by the step and by Init. -/
def Obligations.IllFormedConfigurationIsRefused : Prop :=
  ∀ c : Config,
    (c.wf = true ↔
      c.stackLo ≤ c.stackTop ∧ c.stackTop ≤ 4096 ∧ (c.stackTop - c.stackLo) % 2 = 0 ∧
      0x200 ≤ c.userEnd ∧ c.userEnd ≤ 4096 ∧ c.fontBase + c.fontData.length ≤ 4096 ∧
      ∀ a : Nat,
        ¬((c.fontBase ≤ a ∧ a < c.fontBase + c.fontData.length) ∧ (0x200 ≤ a ∧ a < c.userEnd)) ∧
        ¬((c.fontBase ≤ a ∧ a < c.fontBase + c.fontData.length) ∧ (c.stackLo ≤ a ∧ a < c.stackTop)) ∧
        ¬((0x200 ≤ a ∧ a < c.userEnd) ∧ (c.stackLo ≤ a ∧ a < c.stackTop))) ∧
    (∀ s : State, s.cfg = c → c.wf = false → step s = .refused .badConfiguration ∧
      ∀ v p, applyHost (.init v p) s = .error .badConfiguration)

/-! ## Display -/

/-- CLS: every cell is unlit, and nothing but the framebuffer and PC changes (40_display.md R100). -/
def Obligations.ClsClearsEveryCell : Prop :=
  encode .cls = 0x00E0 ∧
  ∀ s : State, ∃ t, exec .cls s = .next t ∧ (∀ x y, t.pixel x y = false) ∧
    t = { s with display := t.display, pc := s.pc + 2 }

/-- DRW: with all n rows inside memory it toggles exactly the cells its sprite covers, VF tells whether one of them was lit,
and nothing else changes, V registers other than VF and memory neither; with n = 0 no cell is covered. With a row outside
memory, a clipped one too, it takes the OutOfRange fault (40_display.md R101 to R104). -/
def Obligations.DrwTogglesItsSprite : Prop :=
  ∀ (s : State) (x y : Reg) (n : Fin 16),
    (encode (.drw x y n)).toNat = 0xD000 + 0x100 * x.val + 0x10 * y.val + n.val ∧
    ((∀ k, k < n.val → s.i.toNat + k < 4096) → ∃ t, exec (.drw x y n) s = .next t ∧
      (∀ p q, s.spriteCovers x y n.val p q → t.pixel p q = !s.pixel p q) ∧
      (∀ p q, ¬s.spriteCovers x y n.val p q → t.pixel p q = s.pixel p q) ∧
      ((∃ p q, s.spriteCovers x y n.val p q ∧ s.pixel p q = true) → t.getV VF = 1) ∧
      ((∀ p q, s.spriteCovers x y n.val p q → s.pixel p q = false) → t.getV VF = 0) ∧
      s.sameRegsBut t [VF] ∧ t = { s with v := t.v, display := t.display, pc := s.pc + 2 }) ∧
    ((∃ k, k < n.val ∧ 4096 ≤ s.i.toNat + k) →
      exec (.drw x y n) s = .next (s.takeFault .outOfRange (encode (.drw x y n))))

/-- XOR self-inverse: after a DRW that completes, a DRW of the same sprite at the same origin, in any state that has the
framebuffer the first one left, I and the sprite bytes, restores the framebuffer; its VF is 1 exactly when a covered cell
was unlit before the first, equivalently when the first lit a cell, and 0 otherwise (40_display.md R105). -/
def Obligations.DrwTwiceRestoresTheFramebuffer : Prop :=
  ∀ (s t u : State) (x y x' y' : Reg) (n : Fin 16), (∀ k, k < n.val → s.i.toNat + k < 4096) →
    exec (.drw x y n) s = .next t →
    u.display = t.display → u.i = s.i → (∀ k, k < n.val → u.readByte (s.i.toNat + k) = s.readByte (s.i.toNat + k)) →
    (u.getV x').toNat % 64 = (s.getV x).toNat % 64 → (u.getV y').toNat % 32 = (s.getV y).toNat % 32 →
    ∃ r, exec (.drw x' y' n) u = .next r ∧ r.display = s.display ∧
      (r.getV VF = 1 ↔ ∃ p q, s.spriteCovers x y n.val p q ∧ s.pixel p q = false) ∧
      (r.getV VF = 1 ↔ ∃ p q, s.pixel p q = false ∧ t.pixel p q = true) ∧
      (r.getV VF = 1 ∨ r.getV VF = 0)

/-! ## Control transfer -/

/-- JP and JP V0: the target is absolute and unchecked, JP V0 adds V0 with no wrap at 12 bits, only PC changes, and an odd
target, or one at or above 0x1000, faults at the next fetch (41_control.md R121, R122). -/
def Obligations.JumpsSetPc : Prop :=
  ∀ (s : State) (nnn : Addr12),
    (encode (.jp nnn)).toNat = 0x1000 + nnn.toNat ∧ (encode (.jpV0 nnn)).toNat = 0xB000 + nnn.toNat ∧
    (∃ t, exec (.jp nnn) s = .next t ∧ t.pc.toNat = nnn.toNat ∧ t = { s with pc := t.pc } ∧
      (s.cfg.wf = true → s.runState = .running → nnn.toNat % 2 = 1 → step t = .next (t.takeFault .misalignedFetch 0))) ∧
    (∃ t, exec (.jpV0 nnn) s = .next t ∧ t.pc.toNat = nnn.toNat + (s.getV 0).toNat ∧ t = { s with pc := t.pc } ∧
      (s.cfg.wf = true → s.runState = .running →
        (t.pc.toNat % 2 = 1 → step t = .next (t.takeFault .misalignedFetch 0)) ∧
        (t.pc.toNat % 2 = 0 → 0x1000 ≤ t.pc.toNat → step t = .next (t.takeFault .fetchOutOfRange 0))))

/-- CALL: StackOverflow with no room for two bytes; else the address of the CALL itself goes, high byte first, to SP - 2 and
SP - 1, SP moves down by 2, PC is nnn, and no other byte changes (41_control.md R124). The premise SP ≤ 4096 holds of every
state that a run reaches (`Obligations.StepKeepsInvariant`); SP beyond it is `Obligations.StackOutsideMemoryStops`. -/
def Obligations.CallPushesItsAddress : Prop :=
  ∀ (s : State) (nnn : Addr12),
    (encode (.call nnn)).toNat = 0x2000 + nnn.toNat ∧
    (s.sp.toNat < s.cfg.stackLo + 2 →
      exec (.call nnn) s = .next (s.takeFault .stackOverflow (encode (.call nnn)))) ∧
    (s.cfg.stackLo + 2 ≤ s.sp.toNat → s.sp.toNat ≤ 4096 → s.mem.wf = true → ∃ t, exec (.call nnn) s = .next t ∧
      (t.readByte (s.sp.toNat - 2)).toNat * 256 + (t.readByte (s.sp.toNat - 1)).toNat = s.pc.toNat ∧
      t.sp.toNat = s.sp.toNat - 2 ∧ t.pc.toNat = nnn.toNat ∧ s.sameBytesBut t (s.sp.toNat - 2) 2 ∧
      t = { s with mem := t.mem, sp := t.sp, pc := t.pc })

/-- RET: StackUnderflow with an empty stack; else PC is the big-endian word at SP plus 2 mod 2^16, SP moves up by 2, and
nothing else changes, the popped bytes neither; an odd PC popped faults at the next fetch (41_control.md R120). -/
def Obligations.RetPopsAndAddsTwo : Prop :=
  encode .ret = 0x00EE ∧
  ∀ s : State,
    (s.cfg.stackTop < s.sp.toNat + 2 → exec .ret s = .next (s.takeFault .stackUnderflow 0x00EE)) ∧
    (s.sp.toNat + 2 ≤ s.cfg.stackTop → s.cfg.stackTop ≤ 4096 → ∃ t, exec .ret s = .next t ∧
      t.pc.toNat = ((s.readByte s.sp.toNat).toNat * 256 + (s.readByte (s.sp.toNat + 1)).toNat + 2) % 65536 ∧
      t.sp.toNat = s.sp.toNat + 2 ∧ t = { s with sp := t.sp, pc := t.pc } ∧
      (s.cfg.wf = true → s.runState = .running → t.pc.toNat % 2 = 1 →
        step t = .next (t.takeFault .misalignedFetch 0)))

/-- CALL, and later a RET with SP and the two pushed bytes as the CALL left them: PC is the call site plus 2 and SP what it
was before the CALL, whatever ran between (41_control.md R120, R124; 95_test_vectors.md W8). -/
def Obligations.CallThenReturnResumes : Prop :=
  ∀ (s t u : State) (nnn : Addr12), s.mem.wf = true → s.cfg.stackLo + 2 ≤ s.sp.toNat → s.sp.toNat ≤ s.cfg.stackTop →
    s.cfg.stackTop ≤ 4096 → exec (.call nnn) s = .next t →
    u.cfg = s.cfg → u.sp = t.sp → u.readByte t.sp.toNat = t.readByte t.sp.toNat →
    u.readByte (t.sp.toNat + 1) = t.readByte (t.sp.toNat + 1) →
    ∃ r, exec .ret u = .next r ∧ r.pc = s.pc + 2 ∧ r.sp = s.sp

/-- THE MODEL'S CHOICE (log 6), not the spec's: where a CALL or RET that takes no fault would touch an address outside
memory, the model stops; the invariant rules such states out. -/
def Obligations.StackOutsideMemoryStops : Prop :=
  (∀ (s : State) (nnn : Addr12), s.cfg.stackLo + 2 ≤ s.sp.toNat → 4096 < s.sp.toNat →
    exec (.call nnn) s = .fault .addressOutsideMemory) ∧
  (∀ s : State, s.sp.toNat + 2 ≤ s.cfg.stackTop → 4096 < s.sp.toNat + 2 → exec .ret s = .fault .addressOutsideMemory) ∧
  (∀ (s : State) (i : Instr), s.Inv → s.runState = .running → exec i s ≠ .fault .addressOutsideMemory)

/-- The register skips: 4 when the condition holds, else 2, and only PC changes; the words 5xyN and 9xyN with N not 0 are
unknown (41_control.md R125 to R128). -/
def Obligations.RegisterSkips : Prop :=
  ∀ (s : State) (x y : Reg) (kk : Byte),
    (encode (.seImm x kk)).toNat = 0x3000 + 0x100 * x.val + kk.toNat ∧
    (encode (.sneImm x kk)).toNat = 0x4000 + 0x100 * x.val + kk.toNat ∧
    (encode (.seReg x y)).toNat = 0x5000 + 0x100 * x.val + 0x10 * y.val ∧
    (encode (.sneReg x y)).toNat = 0x9000 + 0x100 * x.val + 0x10 * y.val ∧
    (∀ n : BitVec 4, n ≠ 0 → decode (wordXYN 0x5#4 x y n) = none ∧ decode (wordXYN 0x9#4 x y n) = none) ∧
    exec (.seImm x kk) s = .next { s with pc := if s.getV x = kk then s.pc + 4 else s.pc + 2 } ∧
    exec (.sneImm x kk) s = .next { s with pc := if s.getV x ≠ kk then s.pc + 4 else s.pc + 2 } ∧
    exec (.seReg x y) s = .next { s with pc := if s.getV x = s.getV y then s.pc + 4 else s.pc + 2 } ∧
    exec (.sneReg x y) s = .next { s with pc := if s.getV x ≠ s.getV y then s.pc + 4 else s.pc + 2 }

/-! ## Keypad -/

/-- SKP and SKNP: the key is the low nibble of V[x], 4 when it is (not) pressed, else 2, and only PC changes (43_keypad.md
R170, R171). -/
def Obligations.KeySkips : Prop :=
  ∀ (s : State) (x k : Fin 16), k.val = (s.getV x).toNat % 16 →
    (encode (.skp x)).toNat = 0xE09E + 0x100 * x.val ∧ (encode (.sknp x)).toNat = 0xE0A1 + 0x100 * x.val ∧
    exec (.skp x) s = .next { s with pc := if s.key k = true then s.pc + 4 else s.pc + 2 } ∧
    exec (.sknp x) s = .next { s with pc := if s.key k = false then s.pc + 4 else s.pc + 2 }

/-- LD Vx, K: the lowest pressed key goes to V[x]; with no key pressed nothing changes, PC neither; no key is cleared
(43_keypad.md R172). -/
def Obligations.WaitForKey : Prop :=
  ∀ (s : State) (x : Reg),
    (encode (.ldVxK x)).toNat = 0xF00A + 0x100 * x.val ∧
    ((∀ k, s.key k = false) → exec (.ldVxK x) s = .next s) ∧
    (∀ k, s.key k = true → (∀ j, j < k → s.key j = false) → ∃ t, exec (.ldVxK x) s = .next t ∧
      (t.getV x).toNat = k.val ∧ s.sameRegsBut t [x] ∧ t = { s with v := t.v, pc := s.pc + 2 })

/-! ## Registers and arithmetic -/

/-- LD Vx,kk, LD Vx,Vy, LD Vx,DT and ADD Vx,kk write one register, with no flag, and PC (42_alu.md R140, R141, R144;
45_timers.md R200). -/
def Obligations.MovesWriteOneRegister : Prop :=
  ∀ (s : State) (x y : Reg) (kk : Byte),
    (encode (.ldImm x kk)).toNat = 0x6000 + 0x100 * x.val + kk.toNat ∧
    (encode (.ldReg x y)).toNat = 0x8000 + 0x100 * x.val + 0x10 * y.val ∧
    (encode (.ldVxDT x)).toNat = 0xF007 + 0x100 * x.val ∧
    (encode (.addImm x kk)).toNat = 0x7000 + 0x100 * x.val + kk.toNat ∧
    (∃ t, exec (.ldImm x kk) s = .next t ∧ t.getV x = kk ∧
      s.sameRegsBut t [x] ∧ t = { s with v := t.v, pc := s.pc + 2 }) ∧
    (∃ t, exec (.ldReg x y) s = .next t ∧ t.getV x = s.getV y ∧
      s.sameRegsBut t [x] ∧ t = { s with v := t.v, pc := s.pc + 2 }) ∧
    (∃ t, exec (.ldVxDT x) s = .next t ∧ t.getV x = s.dt ∧
      s.sameRegsBut t [x] ∧ t = { s with v := t.v, pc := s.pc + 2 }) ∧
    (∃ t, exec (.addImm x kk) s = .next t ∧ (t.getV x).toNat = ((s.getV x).toNat + kk.toNat) % 256 ∧
      s.sameRegsBut t [x] ∧ t = { s with v := t.v, pc := s.pc + 2 })

/-- RND: a fresh draw, masked; a bit where kk is 0 is 0; kk = 0xFF gives the draw itself (42_alu.md R143). The draw is the
model's free value `Config.draw`, of which nothing is known, and the counter that it is applied to is the model's own
(log 4); the statement holds for every value of the counter. -/
def Obligations.RndMasksAFreshDraw : Prop :=
  ∀ (s : State) (x : Reg) (kk : Byte),
    (encode (.rnd x kk)).toNat = 0xC000 + 0x100 * x.val + kk.toNat ∧
    ∃ t, exec (.rnd x kk) s = .next t ∧
      (∀ b, (t.getV x).getLsbD b = ((Config.draw s.drawIndex).getLsbD b && kk.getLsbD b)) ∧
      (∀ b, kk.getLsbD b = false → (t.getV x).getLsbD b = false) ∧ (kk = 0xFF → t.getV x = Config.draw s.drawIndex) ∧
      s.sameRegsBut t [x] ∧ t = { s with v := t.v, pc := s.pc + 2, drawIndex := s.drawIndex + 1 }

/-- OR, AND, XOR: bit by bit from the old values, VF is 0 last and wins where x = F, and only these and PC change
(42_alu.md R146, R147, R148). -/
def Obligations.LogicClearsVf : Prop :=
  ∀ (s : State) (x y : Reg),
    (encode (.orReg x y)).toNat = 0x8001 + 0x100 * x.val + 0x10 * y.val ∧
    (encode (.andReg x y)).toNat = 0x8002 + 0x100 * x.val + 0x10 * y.val ∧
    (encode (.xorReg x y)).toNat = 0x8003 + 0x100 * x.val + 0x10 * y.val ∧
    (∃ t, exec (.orReg x y) s = .next t ∧ t.getV VF = 0 ∧
      (x ≠ VF → ∀ b, (t.getV x).getLsbD b = ((s.getV x).getLsbD b || (s.getV y).getLsbD b)) ∧
      s.sameRegsBut t [x, VF] ∧ t = { s with v := t.v, pc := s.pc + 2 }) ∧
    (∃ t, exec (.andReg x y) s = .next t ∧ t.getV VF = 0 ∧
      (x ≠ VF → ∀ b, (t.getV x).getLsbD b = ((s.getV x).getLsbD b && (s.getV y).getLsbD b)) ∧
      s.sameRegsBut t [x, VF] ∧ t = { s with v := t.v, pc := s.pc + 2 }) ∧
    (∃ t, exec (.xorReg x y) s = .next t ∧ t.getV VF = 0 ∧
      (x ≠ VF → ∀ b, (t.getV x).getLsbD b = ((s.getV x).getLsbD b ^^ (s.getV y).getLsbD b)) ∧
      s.sameRegsBut t [x, VF] ∧ t = { s with v := t.v, pc := s.pc + 2 })

/-- ADD Vx,Vy: the sum mod 256, then VF is the carry, which wins where x = F (42_alu.md R149). -/
def Obligations.AddSetsCarry : Prop :=
  ∀ (s : State) (x y : Reg),
    (encode (.addReg x y)).toNat = 0x8004 + 0x100 * x.val + 0x10 * y.val ∧
    ∃ t, exec (.addReg x y) s = .next t ∧
      (t.getV VF).toNat = ((s.getV x).toNat + (s.getV y).toNat) / 256 ∧
      (x ≠ VF → (t.getV x).toNat = ((s.getV x).toNat + (s.getV y).toNat) % 256) ∧
      s.sameRegsBut t [x, VF] ∧ t = { s with v := t.v, pc := s.pc + 2 }

/-- SUB and SUBN: the difference mod 256, then VF is 1 exactly when there is no borrow, and wins where x = F (42_alu.md
R150, R151). -/
def Obligations.SubtractionsSetNoBorrow : Prop :=
  ∀ (s : State) (x y : Reg),
    (encode (.subReg x y)).toNat = 0x8005 + 0x100 * x.val + 0x10 * y.val ∧
    (encode (.subn x y)).toNat = 0x8007 + 0x100 * x.val + 0x10 * y.val ∧
    (∃ t, exec (.subReg x y) s = .next t ∧
      (t.getV VF).toNat = (if (s.getV y).toNat ≤ (s.getV x).toNat then 1 else 0) ∧
      (x ≠ VF → ((t.getV x).toNat : Int) = ((s.getV x).toNat - (s.getV y).toNat : Int) % 256) ∧
      s.sameRegsBut t [x, VF] ∧ t = { s with v := t.v, pc := s.pc + 2 }) ∧
    (∃ t, exec (.subn x y) s = .next t ∧
      (t.getV VF).toNat = (if (s.getV x).toNat ≤ (s.getV y).toNat then 1 else 0) ∧
      (x ≠ VF → ((t.getV x).toNat : Int) = ((s.getV y).toNat - (s.getV x).toNat : Int) % 256) ∧
      s.sameRegsBut t [x, VF] ∧ t = { s with v := t.v, pc := s.pc + 2 })

/-- SHR and SHL: the source is V[y] where SHIFT_MODE(VERSION) is CopyThenShift and V[x] where it is InPlace; it is shifted
by 1, and VF is the bit shifted out, which wins where x = F (42_alu.md R152, R153). -/
def Obligations.ShiftsSetTheBitShiftedOut : Prop :=
  ∀ (s : State) (x y : Reg) (src : Byte),
    (s.cfg.shiftModes.of s.version = .copyThenShift → src = s.getV y) →
    (s.cfg.shiftModes.of s.version = .inPlace → src = s.getV x) →
    (encode (.shr x y)).toNat = 0x8006 + 0x100 * x.val + 0x10 * y.val ∧
    (encode (.shl x y)).toNat = 0x800E + 0x100 * x.val + 0x10 * y.val ∧
    (∃ t, exec (.shr x y) s = .next t ∧ (t.getV VF).toNat = src.toNat % 2 ∧
      (x ≠ VF → (t.getV x).toNat = src.toNat / 2) ∧
      s.sameRegsBut t [x, VF] ∧ t = { s with v := t.v, pc := s.pc + 2 }) ∧
    (∃ t, exec (.shl x y) s = .next t ∧ (t.getV VF).toNat = src.toNat / 128 ∧
      (x ≠ VF → (t.getV x).toNat = 2 * src.toNat % 256) ∧
      s.sameRegsBut t [x, VF] ∧ t = { s with v := t.v, pc := s.pc + 2 })

/-! ## Index, memory, timers -/

/-- LD I, ADD I and LD F: I as the spec computes it, mod 2^16; only I and PC change, VF neither (44_memory_index.md R181,
R182, R183). -/
def Obligations.IndexSetters : Prop :=
  ∀ (s : State) (x : Reg) (nnn : Addr12),
    (encode (.ldI nnn)).toNat = 0xA000 + nnn.toNat ∧ (encode (.addI x)).toNat = 0xF01E + 0x100 * x.val ∧
    (encode (.ldF x)).toNat = 0xF029 + 0x100 * x.val ∧
    (∃ t, exec (.ldI nnn) s = .next t ∧ t.i.toNat = nnn.toNat ∧ t = { s with i := t.i, pc := s.pc + 2 }) ∧
    (∃ t, exec (.addI x) s = .next t ∧ t.i.toNat = (s.i.toNat + (s.getV x).toNat) % 65536 ∧
      t = { s with i := t.i, pc := s.pc + 2 }) ∧
    (∃ t, exec (.ldF x) s = .next t ∧
      t.i.toNat = (s.cfg.fontBase + s.cfg.fontStride * ((s.getV x).toNat % 16)) % 65536 ∧
      t = { s with i := t.i, pc := s.pc + 2 })

/-- LD B: with its three bytes inside memory they become the decimal digits of V[x], each in 0..9 and with the value as
their sum, no other byte changes, I neither; else the OutOfRange fault (44_memory_index.md R184, R185). -/
def Obligations.BcdStoresTheDigits : Prop :=
  ∀ (s : State) (x : Reg),
    (encode (.ldB x)).toNat = 0xF033 + 0x100 * x.val ∧
    (4096 ≤ s.i.toNat + 2 → exec (.ldB x) s = .next (s.takeFault .outOfRange (encode (.ldB x)))) ∧
    (s.i.toNat + 2 < 4096 → s.mem.wf = true → ∃ t, exec (.ldB x) s = .next t ∧
      (t.readByte s.i.toNat).toNat = (s.getV x).toNat / 100 ∧
      (t.readByte (s.i.toNat + 1)).toNat = (s.getV x).toNat / 10 % 10 ∧
      (t.readByte (s.i.toNat + 2)).toNat = (s.getV x).toNat % 10 ∧
      100 * (t.readByte s.i.toNat).toNat + 10 * (t.readByte (s.i.toNat + 1)).toNat +
        (t.readByte (s.i.toNat + 2)).toNat = (s.getV x).toNat ∧
      (∀ k, k < 3 → (t.readByte (s.i.toNat + k)).toNat ≤ 9) ∧
      s.sameBytesBut t s.i.toNat 3 ∧ t = { s with mem := t.mem, pc := s.pc + 2 })

/-- LD [I],Vx: V0 to Vx go to the bytes from I, no other byte changes, and I moves on by x + 1; with a byte outside memory,
the OutOfRange fault (44_memory_index.md R186). -/
def Obligations.RegisterDump : Prop :=
  ∀ (s : State) (x : Reg),
    (encode (.storeRegs x)).toNat = 0xF055 + 0x100 * x.val ∧
    (4096 ≤ s.i.toNat + x.val → exec (.storeRegs x) s = .next (s.takeFault .outOfRange (encode (.storeRegs x)))) ∧
    (s.i.toNat + x.val < 4096 → s.mem.wf = true → ∃ t, exec (.storeRegs x) s = .next t ∧
      (∀ k : Reg, k ≤ x → t.readByte (s.i.toNat + k.val) = s.getV k) ∧ t.i.toNat = s.i.toNat + x.val + 1 ∧
      s.sameBytesBut t s.i.toNat (x.val + 1) ∧ t = { s with mem := t.mem, i := t.i, pc := s.pc + 2 })

/-- LD Vx,[I]: V0 to Vx come from the bytes from I, the other registers stay, and I moves on by x + 1; with a byte outside
memory, the OutOfRange fault (44_memory_index.md R187). -/
def Obligations.RegisterLoad : Prop :=
  ∀ (s : State) (x : Reg),
    (encode (.loadRegs x)).toNat = 0xF065 + 0x100 * x.val ∧
    (4096 ≤ s.i.toNat + x.val → exec (.loadRegs x) s = .next (s.takeFault .outOfRange (encode (.loadRegs x)))) ∧
    (s.i.toNat + x.val < 4096 → ∃ t, exec (.loadRegs x) s = .next t ∧
      (∀ k : Reg, k ≤ x → t.getV k = s.readByte (s.i.toNat + k.val)) ∧ (∀ k : Reg, x < k → t.getV k = s.getV k) ∧
      t.i.toNat = s.i.toNat + x.val + 1 ∧ t = { s with v := t.v, i := t.i, pc := s.pc + 2 })

/-- An instruction that accesses memory through I takes the OutOfRange fault exactly when an address of its access set is
at least 4096, in natural numbers and before any effect (20_memory.md R58). `n` is the number of bytes of the set. -/
def Obligations.OutOfRangeExactlyOutsideMemory : Prop :=
  ∀ (s : State) (i : Instr) (n : Nat),
    ((∃ (x y : Reg) (h : Fin 16), i = .drw x y h ∧ n = h.val) ∨ (∃ x, i = .ldB x ∧ n = 3) ∨
      (∃ x : Reg, i = .storeRegs x ∧ n = x.val + 1) ∨ (∃ x : Reg, i = .loadRegs x ∧ n = x.val + 1)) →
    ((∃ k, k < n ∧ 4096 ≤ s.i.toNat + k) ↔ exec i s = .next { s with
      runState := .faulted
      fault := some ⟨.outOfRange, s.pc, encode i⟩
      events := s.events ++ [⟨.fault .outOfRange, s.pc, encode i⟩] })

/-- LD DT,Vx and LD ST,Vx: the timer and PC, nothing else (45_timers.md R201, R202). -/
def Obligations.TimerWrites : Prop :=
  ∀ (s : State) (x : Reg),
    (encode (.ldDTVx x)).toNat = 0xF015 + 0x100 * x.val ∧ (encode (.ldSTVx x)).toNat = 0xF018 + 0x100 * x.val ∧
    exec (.ldDTVx x) s = .next { s with dt := s.getV x, pc := s.pc + 2 } ∧
    exec (.ldSTVx x) s = .next { s with st := s.getV x, pc := s.pc + 2 }

/-- A store through I into the next instruction's two bytes is what the next fetch reads (20_memory.md R64). -/
def Obligations.StoreIsSeenByTheNextFetch : Prop :=
  ∀ (s t : State) (x j : Reg) (j' : Nat) (hj : j' < 16), s.mem.wf = true → s.i.toNat + x.val < 4096 →
    exec (.storeRegs x) s = .next t → j' = j.val + 1 → j' ≤ x.val → s.i.toNat + j.val = (s.pc + 2).toNat →
    (t.fetchWord).toNat = (s.getV j).toNat * 256 + (s.getV ⟨j', hj⟩).toNat

/-! ## Whole-machine rules -/

/-- PC progress (41_control.md R130): an instruction other than JP, JP V0, CALL and RET moves PC by exactly 4 where it is a
skip whose condition holds and by exactly 2 otherwise, with three exceptions, each of which leaves PC as it was: LD Vx,K with
no key pressed; a fault, of a fetch or of any instruction (an instruction that adds an event has faulted); an unknown opcode
under HaltAndReport. An unknown opcode under SkipAndReport moves PC by 2. -/
def Obligations.PcProgress : Prop :=
  (∀ (i : Instr) (s t : State), exec i s = .next t →
    (t.events ≠ s.events → t.pc = s.pc ∧ ∃ k, t = s.takeFault k (encode i)) ∧
    (s.waitsForKey i → t = s) ∧
    (s.skipTaken i → t.pc = s.pc + 4) ∧
    (t.events = s.events → ¬s.waitsForKey i → ¬s.skipTaken i →
      (∀ nnn, i ≠ .jp nnn) → (∀ nnn, i ≠ .jpV0 nnn) → (∀ nnn, i ≠ .call nnn) → i ≠ .ret → t.pc = s.pc + 2)) ∧
  (∀ s t : State, step s = .next t →
    (t.runState = .faulted → t.pc = s.pc) ∧
    (s.fetchFault = none → decode s.fetchWord = none →
      (s.policy = .skipAndReport → t.pc = s.pc + 2) ∧ (s.policy = .haltAndReport → t.pc = s.pc)))

/-- Every instruction leaves every V register alone but those it writes: its named destination, VF where it defines a flag,
V0 to Vx for LD Vx,[I] (10_state.md R20, R22). `writtenRegs` lists them. -/
def Obligations.OnlyNamedRegistersAreWritten : Prop :=
  ∀ (i : Instr) (s t : State), exec i s = .next t → ∀ r, r ∉ writtenRegs i → t.getV r = s.getV r

/-- Who writes I, SP, DT and ST: I only LD I, ADD I, LD F, LD [I] and LD Vx,[I]; SP only CALL, by 2 down, and RET, by 2 up;
DT only LD DT; ST only LD ST. No instruction decrements a timer (10_state.md R24, R28, R30). -/
def Obligations.WhoWritesTheSpecialRegisters : Prop :=
  ∀ (i : Instr) (s t : State), exec i s = .next t →
    (t.i ≠ s.i → (∃ nnn, i = .ldI nnn) ∨ (∃ x, i = .addI x) ∨ (∃ x, i = .ldF x) ∨ (∃ x, i = .storeRegs x) ∨
      (∃ x, i = .loadRegs x)) ∧
    (t.sp ≠ s.sp → ((∃ nnn, i = .call nnn) ∧ t.sp = s.sp - 2) ∨ (i = .ret ∧ t.sp = s.sp + 2)) ∧
    (t.dt ≠ s.dt → ∃ x, i = .ldDTVx x ∧ t.dt = s.getV x) ∧
    (t.st ≠ s.st → ∃ x, i = .ldSTVx x ∧ t.st = s.getV x)

/-- Who writes the framebuffer and memory: the framebuffer only CLS and DRW; memory only CALL, the two bytes below SP, LD B,
the three from I, and LD [I],Vx, the x + 1 from I (10_state.md R31; 20_memory.md R52, R53, R61). -/
def Obligations.WhoWritesMemoryAndFramebuffer : Prop :=
  ∀ (i : Instr) (s t : State), exec i s = .next t →
    (t.display ≠ s.display → i = .cls ∨ ∃ x y n, i = .drw x y n) ∧
    (∀ a, t.readByte a ≠ s.readByte a →
      ((∃ nnn, i = .call nnn) ∧ (a = s.sp.toNat - 2 ∨ a = s.sp.toNat - 1)) ∨
      ((∃ x, i = .ldB x) ∧ s.i.toNat ≤ a ∧ a < s.i.toNat + 3) ∨
      (∃ x : Reg, i = .storeRegs x ∧ s.i.toNat ≤ a ∧ a ≤ s.i.toNat + x.val))

/-- A step never writes the keys, VERSION, the policy, ROM_SIZE or the configuration: they are the host's (10_state.md R32,
R33, R34, R38). -/
def Obligations.StepKeepsTheHostsState : Prop :=
  ∀ s t : State, step s = .next t →
    t.keys = s.keys ∧ t.version = s.version ∧ t.policy = s.policy ∧ t.romSize = s.romSize ∧ t.cfg = s.cfg

/-- Fault entry: a step that ends in Faulted has applied no effect of the instruction; it has set FAULT to the kind, the PC
and the fetched word, or 0x0000 where the fetch itself failed, added the same triple to EVENTS, and entered Faulted
(60_exceptions.md R224). -/
def Obligations.FaultsArePrecise : Prop :=
  ∀ s t : State, step s = .next t → t.runState = .faulted →
    ∃ k w, t = { s with
        runState := .faulted, fault := some ⟨k, s.pc, w⟩, events := s.events ++ [⟨.fault k, s.pc, w⟩] } ∧
      (k = .misalignedFetch ∨ k = .fetchOutOfRange → w = 0x0000 ∧ ¬(s.pc.toNat % 2 = 0 ∧ s.pc.toNat + 1 < 4096)) ∧
      (k = .outOfRange ∨ k = .stackOverflow ∨ k = .stackUnderflow →
        w = s.readByte s.pc.toNat ++ s.readByte (s.pc.toNat + 1))

/-- Each instruction raises at most one kind of fault: OutOfRange only DRW, LD B, LD [I] and LD Vx,[I]; StackOverflow only
CALL; StackUnderflow only RET (60_exceptions.md R226). -/
def Obligations.FaultKindOfEachInstruction : Prop :=
  ∀ (i : Instr) (s t : State), exec i s = .next t → s.runState = .running → t.runState ≠ .running →
    ∃ k, t = s.takeFault k (encode i) ∧
      ((k = .outOfRange ∧ ((∃ x y n, i = .drw x y n) ∨ (∃ x, i = .ldB x) ∨ (∃ x, i = .storeRegs x) ∨
        (∃ x, i = .loadRegs x))) ∨
      (k = .stackOverflow ∧ ∃ nnn, i = .call nnn) ∨ (k = .stackUnderflow ∧ i = .ret))

/-- EVENTS is append-only: a step adds one event for a fault, one for an unknown opcode, each with the PC of the step, and
none otherwise (10_state.md R37; 30_encoding.md R80; 60_exceptions.md R224). -/
def Obligations.EventsAreAppendOnly : Prop :=
  ∀ s t : State, step s = .next t →
    (t.events = s.events ∧ t.runState = .running ∧ s.fetchFault = none ∧ ∃ i, decode s.fetchWord = some i) ∨
    (∃ k w, t.events = s.events ++ [⟨.fault k, s.pc, w⟩] ∧ t.runState = .faulted) ∨
    (t.events = s.events ++ [⟨.unknownOpcode, s.pc, s.fetchWord⟩] ∧ decode s.fetchWord = none ∧ t.runState ≠ .faulted ∧
      t.fault = s.fault)

/-- In Faulted and in Halted there is no step, and no action of the host but Init changes RUN_STATE; in no run state does
one but Init write PC or FAULT; Init leads to Running with no fault (60_exceptions.md R225). -/
def Obligations.OnlyInitLeavesFaultedAndHalted : Prop :=
  (∀ s : State, s.runState = .faulted ∨ s.runState = .halted →
    (∀ t, step s ≠ .next t) ∧
    (∀ a t, applyHost a s = .ok t → (∀ v p, a ≠ .init v p) → t.runState = s.runState)) ∧
  (∀ (s t : State) (a : HostAction), applyHost a s = .ok t → (∀ v p, a ≠ .init v p) → t.pc = s.pc ∧ t.fault = s.fault) ∧
  (∀ (s : State) (v : Version) (p : UnknownOpcodePolicy), s.cfg.wf = true →
    ∃ t, applyHost (.init v p) s = .ok t ∧ t.runState = .running ∧ t.fault = none)

/-- VERSION changes no instruction but SHR and SHL (10_state.md R33; 92_eei_decisions.md D8): every other instruction, run
under another version and another SHIFT_MODE, ends in the same outcome but for these two fields. RND is compared under one draw,
an input of the step (42_alu.md R143): both counters are equal (log 4). -/
def Obligations.VersionMattersOnlyToShifts : Prop :=
  ∀ (i : Instr) (s : State) (v : Version) (m : ShiftModes), (∀ x y, i ≠ .shr x y) → (∀ x y, i ≠ .shl x y) →
    (∀ t, exec i s = .next t → exec i { s with version := v, cfg := { s.cfg with shiftModes := m } } =
      .next { t with version := v, cfg := { t.cfg with shiftModes := m } }) ∧
    (∀ f, exec i s = .fault f → exec i { s with version := v, cfg := { s.cfg with shiftModes := m } } = .fault f)

/-- The keys reach only SKP, SKNP and LD Vx,K (20_memory.md R53): every other instruction, run with other keys, ends in the
same outcome but for the keys. RND is compared under one draw, an input of the step (42_alu.md R143): both counters are
equal (log 4). -/
def Obligations.KeysMatterOnlyToKeyInstructions : Prop :=
  ∀ (i : Instr) (s : State) (ks : Vector Bool 16), (∀ x, i ≠ .skp x) → (∀ x, i ≠ .sknp x) → (∀ x, i ≠ .ldVxK x) →
    (∀ t, exec i s = .next t → exec i { s with keys := ks } = .next { t with keys := ks }) ∧
    (∀ f, exec i s = .fault f → exec i { s with keys := ks } = .fault f)

/-! ## Reset and the host -/

/-- Init leaves every part of the state at its after-Init value, from any state (70_reset_and_hazards.md R250). `k` runs
over the font's bytes. The draw counter, no state of the spec, is not spoken of. -/
def Obligations.InitSetsEveryPart : Prop :=
  ∀ (s : State) (v : Version) (p : UnknownOpcodePolicy), s.cfg.wf = true →
    hostInit s v = applyHost (.init v .skipAndReport) s ∧
    ∃ t, applyHost (.init v p) s = .ok t ∧
      (∀ k b, s.cfg.fontData[k]? = some b → t.readByte (s.cfg.fontBase + k) = b) ∧
      (∀ a, a < s.cfg.fontBase ∨ s.cfg.fontBase + s.cfg.fontData.length ≤ a → t.readByte a = 0) ∧
      (∀ r, t.getV r = 0) ∧ t.i = 0 ∧ t.dt = 0 ∧ t.st = 0 ∧ t.pc = 0x200 ∧ t.sp.toNat = s.cfg.stackTop ∧
      (∀ x y, t.pixel x y = false) ∧ (∀ k, t.key k = false) ∧ t.version = v ∧ t.policy = p ∧ t.runState = .running ∧
      t.fault = none ∧ t.events = [] ∧ t.romSize = 0 ∧ t.cfg = s.cfg

/-- The state before any Init is zero everywhere, Uninitialized, and takes no step (70_reset_and_hazards.md R252;
10_state.md R40). -/
def Obligations.BeforeInitNothingRuns : Prop :=
  ∀ c : Config,
    (∀ r, (State.beforeInit c).getV r = 0) ∧ (∀ a, (State.beforeInit c).readByte a = 0) ∧
    (∀ x y, (State.beforeInit c).pixel x y = false) ∧ (∀ k, (State.beforeInit c).key k = false) ∧
    (State.beforeInit c).i = 0 ∧ (State.beforeInit c).pc = 0 ∧ (State.beforeInit c).sp = 0 ∧
    (State.beforeInit c).dt = 0 ∧ (State.beforeInit c).st = 0 ∧ (State.beforeInit c).version.code = 0 ∧
    (State.beforeInit c).policy = .skipAndReport ∧ (State.beforeInit c).fault = none ∧
    (State.beforeInit c).events = [] ∧ (State.beforeInit c).romSize = 0 ∧
    (State.beforeInit c).runState = .uninitialized ∧ (∀ t, step (State.beforeInit c) ≠ .next t)

/-- THE MODEL'S CHOICE of the one reset state (log 1, log 2), not the spec's: it is what Init leaves under the reference
configuration, for Chip-8, with the default policy; the PC is 0x200 and the stack is empty, as the spec says of every Init
(70_reset_and_hazards.md R250, R251). -/
def Obligations.ResetIsInitUnderRef : Prop :=
  applyHost (.init .chip8 .skipAndReport) (State.beforeInit Config.ref) = .ok State.reset ∧
  State.reset.pc = 0x200 ∧ State.reset.sp.toNat = State.reset.cfg.stackTop ∧ State.reset.runState = .running

/-- Tick: each timer goes down by 1 and never below 0, in any run state, and nothing else changes (45_timers.md R203). -/
def Obligations.TickCountsDown : Prop :=
  ∀ s : State, ∃ t, applyHost .tick s = .ok t ∧ t.dt.toNat = s.dt.toNat - 1 ∧ t.st.toNat = s.st.toNat - 1 ∧
    t = { s with dt := t.dt, st := t.st }

/-- SetKey: one key bit, nothing else, in every run state after Init (60_exceptions.md R240, R242). Before Init it is not
enabled. -/
def Obligations.SetKeySetsOneKey : Prop :=
  ∀ (s : State) (k : Fin 16) (b : Bool),
    (s.runState ≠ .uninitialized → ∃ t, applyHost (.setKey k b) s = .ok t ∧ t.key k = b ∧
      (∀ j, j ≠ k → t.key j = s.key j) ∧ t = { s with keys := t.keys }) ∧
    (s.runState = .uninitialized → applyHost (.setKey k b) s = .error .notEnabled)

/-- InstallRom: too large a ROM is rejected and nothing changes; else its bytes go to USER_BASE, ROM_SIZE is their number,
and nothing else changes; before Init it is not enabled (70_reset_and_hazards.md R253). -/
def Obligations.InstallRomCopiesOrRejects : Prop :=
  ∀ (s : State) (bs : List Byte), s.cfg.wf = true → s.mem.wf = true →
    (s.runState = .uninitialized → applyHost (.installRom bs) s = .error .notEnabled) ∧
    (s.runState ≠ .uninitialized → s.cfg.userEnd < 0x200 + bs.length →
      applyHost (.installRom bs) s = .error .romTooLarge) ∧
    (s.runState ≠ .uninitialized → 0x200 + bs.length ≤ s.cfg.userEnd → ∃ t, applyHost (.installRom bs) s = .ok t ∧
      (∀ k b, bs[k]? = some b → t.readByte (0x200 + k) = b) ∧ s.sameBytesBut t 0x200 bs.length ∧
      t.romSize = bs.length ∧ t = { s with mem := t.mem, romSize := t.romSize })

/-! ## The invariant -/

/-- The invariant holds at reset. -/
def Obligations.InvariantAtReset : Prop := State.reset.Inv

/-- Every step keeps the invariant, from every state that meets it: the configuration is legal, memory is canonical and
inside the 4096 bytes, SP is on a slot of the stack region, FAULT is set exactly in Faulted and is among the events, Halted
is reached under HaltAndReport alone, and an installed ROM fits (20_memory.md R52, R56; 10_state.md R28, R36, R37). -/
def Obligations.StepKeepsInvariant : Prop := ∀ s t : State, s.Inv → step s = .next t → t.Inv

/-- Every host action keeps the invariant (60_exceptions.md R240). -/
def Obligations.HostActionsKeepInvariant : Prop :=
  ∀ (s t : State) (a : HostAction), s.Inv → applyHost a s = .ok t → t.Inv

/-- No step stops short: in Running, from every state that meets the invariant, there is a next state; a step is refused
only outside Running (60_exceptions.md R222, R241). -/
def Obligations.EveryRunningStepCompletes : Prop :=
  ∀ s : State, s.Inv → (s.runState = .running ↔ ∃ t, step s = .next t)

/-- Under every legal configuration, in whatever order steps and host actions come, every state that the block reaches from
before any Init meets the invariant, and a step from it answers a next state in Running and is refused otherwise
(60_exceptions.md R240, R241; 45_timers.md R203; 92_eei_decisions.md D24). -/
def Obligations.ReachableStatesAreSafe : Prop :=
  ∀ (c : Config) (s : State), c.wf = true → Reachable c s →
    s.Inv ∧ s.cfg = c ∧ (s.runState = .running → ∃ t, step s = .next t) ∧
    (s.runState ≠ .running → step s = .refused (.notRunning s.runState))

/-! ## What no instruction reads -/

/-- No instruction reads ST (45_timers.md R202): with another value in ST every instruction ends in the same outcome, every
part of the next state but ST alike; and ST is then the value that was put there, unless the instruction is LD ST,Vx.
RND is compared under one draw, an input of the step (42_alu.md R143): both counters are equal (log 4). -/
def Obligations.NoInstructionReadsTheSoundTimer : Prop :=
  ∀ (i : Instr) (s : State) (b : Byte),
    (∀ t, exec i s = .next t → ∃ u, exec i { s with st := b } = .next u ∧ t = { u with st := t.st } ∧
      ((∀ x, i ≠ .ldSTVx x) → u.st = b) ∧ ((∃ x, i = .ldSTVx x) → u.st = t.st)) ∧
    (∀ f, exec i s = .fault f → exec i { s with st := b } = .fault f)
end

