-- ==== Sys2Proof/Laws/Decode.lean ====
section
/-! SUPPORT. The fields of the words that the three layouts make, and what a mask of the opcode table keeps of them. -/

namespace Sys2Proof

/-! ### Fields of a word -/

theorem field_of_field (r : Fin 16) : (⟨(regField r).toNat, (regField r).isLt⟩ : Fin 16) = r := rfl

theorem fieldOp_wordNNN (op : BitVec 4) (nnn : Addr12) : fieldOp (wordNNN op nnn) = op := by
  apply BitVec.eq_of_getLsbD_eq
  intro k hk
  simp only [fieldOp, wordNNN, BitVec.getLsbD_extractLsb', BitVec.getLsbD_append]
  interval_cases k <;> simp

theorem fieldNNN_wordNNN (op : BitVec 4) (nnn : Addr12) : fieldNNN (wordNNN op nnn) = nnn := by
  apply BitVec.eq_of_getLsbD_eq
  intro k hk
  simp only [fieldNNN, wordNNN, BitVec.getLsbD_extractLsb', BitVec.getLsbD_append]
  interval_cases k <;> simp

theorem fieldOp_wordXKK (op : BitVec 4) (x : Reg) (kk : Byte) : fieldOp (wordXKK op x kk) = op := by
  apply BitVec.eq_of_getLsbD_eq
  intro k hk
  simp only [fieldOp, wordXKK, BitVec.getLsbD_extractLsb', BitVec.getLsbD_append]
  interval_cases k <;> simp

theorem xBits_wordXKK (op : BitVec 4) (x : Reg) (kk : Byte) : (wordXKK op x kk).extractLsb' 8 4 = regField x := by
  apply BitVec.eq_of_getLsbD_eq
  intro k hk
  simp only [wordXKK, BitVec.getLsbD_extractLsb', BitVec.getLsbD_append]
  interval_cases k <;> simp

theorem fieldX_wordXKK (op : BitVec 4) (x : Reg) (kk : Byte) : fieldX (wordXKK op x kk) = x := by
  unfold fieldX
  simp only [xBits_wordXKK]
  exact field_of_field x

theorem fieldKK_wordXKK (op : BitVec 4) (x : Reg) (kk : Byte) : fieldKK (wordXKK op x kk) = kk := by
  apply BitVec.eq_of_getLsbD_eq
  intro k hk
  simp only [fieldKK, wordXKK, BitVec.getLsbD_extractLsb', BitVec.getLsbD_append]
  interval_cases k <;> simp

theorem fieldOp_wordXYN (op : BitVec 4) (x y : Reg) (n : BitVec 4) : fieldOp (wordXYN op x y n) = op := by
  apply BitVec.eq_of_getLsbD_eq
  intro k hk
  simp only [fieldOp, wordXYN, BitVec.getLsbD_extractLsb', BitVec.getLsbD_append]
  interval_cases k <;> simp

theorem xBits_wordXYN (op : BitVec 4) (x y : Reg) (n : BitVec 4) :
    (wordXYN op x y n).extractLsb' 8 4 = regField x := by
  apply BitVec.eq_of_getLsbD_eq
  intro k hk
  simp only [wordXYN, BitVec.getLsbD_extractLsb', BitVec.getLsbD_append]
  interval_cases k <;> simp

theorem yBits_wordXYN (op : BitVec 4) (x y : Reg) (n : BitVec 4) :
    (wordXYN op x y n).extractLsb' 4 4 = regField y := by
  apply BitVec.eq_of_getLsbD_eq
  intro k hk
  simp only [wordXYN, BitVec.getLsbD_extractLsb', BitVec.getLsbD_append]
  interval_cases k <;> simp

theorem fieldX_wordXYN (op : BitVec 4) (x y : Reg) (n : BitVec 4) : fieldX (wordXYN op x y n) = x := by
  unfold fieldX
  simp only [xBits_wordXYN]
  exact field_of_field x

theorem fieldY_wordXYN (op : BitVec 4) (x y : Reg) (n : BitVec 4) : fieldY (wordXYN op x y n) = y := by
  unfold fieldY
  simp only [yBits_wordXYN]
  exact field_of_field y

theorem fieldN_wordXYN (op : BitVec 4) (x y : Reg) (n : BitVec 4) : fieldN (wordXYN op x y n) = n := by
  apply BitVec.eq_of_getLsbD_eq
  intro k hk
  simp only [fieldN, wordXYN, BitVec.getLsbD_extractLsb', BitVec.getLsbD_append]
  interval_cases k <;> simp

theorem fieldHeight_wordXYN (op : BitVec 4) (x y : Reg) (n : Fin 16) :
    fieldHeight (wordXYN op x y (regField n)) = n := by
  unfold fieldHeight
  simp only [fieldN_wordXYN]
  exact field_of_field n

/-! ### A word is made of its fields -/

theorem regField_fieldX (w : Word) : regField (fieldX w) = w.extractLsb' 8 4 := rfl

theorem regField_fieldY (w : Word) : regField (fieldY w) = w.extractLsb' 4 4 := rfl

theorem regField_fieldHeight (w : Word) : regField (fieldHeight w) = fieldN w := rfl

theorem wordNNN_fields (w : Word) : wordNNN (fieldOp w) (fieldNNN w) = w := by
  apply BitVec.eq_of_getLsbD_eq
  intro k hk
  simp only [fieldOp, fieldNNN, wordNNN, BitVec.getLsbD_extractLsb', BitVec.getLsbD_append]
  interval_cases k <;> simp

theorem wordXKK_fields (w : Word) : wordXKK (fieldOp w) (fieldX w) (fieldKK w) = w := by
  rw [wordXKK, regField_fieldX]
  apply BitVec.eq_of_getLsbD_eq
  intro k hk
  simp only [fieldOp, fieldKK, BitVec.getLsbD_extractLsb', BitVec.getLsbD_append]
  interval_cases k <;> simp

theorem wordXYN_fields (w : Word) : wordXYN (fieldOp w) (fieldX w) (fieldY w) (fieldN w) = w := by
  rw [wordXYN, regField_fieldX, regField_fieldY]
  apply BitVec.eq_of_getLsbD_eq
  intro k hk
  simp only [fieldOp, fieldN, BitVec.getLsbD_extractLsb', BitVec.getLsbD_append]
  interval_cases k <;> simp

/-! ### A word as a number (30_encoding.md R71, R72) -/

theorem regField_toNat (r : Fin 16) : (regField r).toNat = r.val := rfl

theorem wordNNN_toNat (op : BitVec 4) (nnn : Addr12) : (wordNNN op nnn).toNat = 0x1000 * op.toNat + nnn.toNat := by
  simp only [wordNNN, BitVec.toNat_append]
  rw [Nat.shiftLeft_eq, Nat.mul_comm, ← Nat.two_pow_add_eq_or_of_lt nnn.isLt]

theorem wordXKK_toNat (op : BitVec 4) (x : Reg) (kk : Byte) :
    (wordXKK op x kk).toNat = 0x1000 * op.toNat + 0x100 * x.val + kk.toNat := by
  simp only [wordXKK, BitVec.toNat_append, Nat.shiftLeft_eq]
  rw [Nat.mul_comm _ (2 ^ 8), Nat.mul_comm _ (2 ^ 4), ← Nat.two_pow_add_eq_or_of_lt kk.isLt,
    ← Nat.two_pow_add_eq_or_of_lt (regField x).isLt, regField_toNat]
  omega

theorem wordXYN_toNat (op : BitVec 4) (x y : Reg) (n : BitVec 4) :
    (wordXYN op x y n).toNat = 0x1000 * op.toNat + 0x100 * x.val + 0x10 * y.val + n.toNat := by
  simp only [wordXYN, BitVec.toNat_append, Nat.shiftLeft_eq]
  rw [Nat.mul_comm _ (2 ^ 4), Nat.mul_comm _ (2 ^ 4), Nat.mul_comm _ (2 ^ 4), ← Nat.two_pow_add_eq_or_of_lt n.isLt,
    ← Nat.two_pow_add_eq_or_of_lt (regField x).isLt, ← Nat.two_pow_add_eq_or_of_lt (regField y).isLt, regField_toNat,
    regField_toNat]
  omega

/-! ### What a mask keeps (30_encoding.md R77) -/

theorem regField_zero_getLsbD (k : Nat) : (regField 0).getLsbD k = false := by
  change (0#4).getLsbD k = false
  simp

theorem wordNNN_mask_op (op : BitVec 4) (nnn : Addr12) : wordNNN op nnn &&& 0xF000#16 = wordNNN op 0 := by
  apply BitVec.eq_of_getLsbD_eq
  intro k hk
  rw [BitVec.getLsbD_and]
  simp only [wordNNN, BitVec.getLsbD_append]
  interval_cases k <;> simp

theorem wordXKK_mask_op (op : BitVec 4) (x : Reg) (kk : Byte) : wordXKK op x kk &&& 0xF000#16 = wordNNN op 0 := by
  apply BitVec.eq_of_getLsbD_eq
  intro k hk
  rw [BitVec.getLsbD_and]
  simp only [wordNNN, wordXKK, BitVec.getLsbD_append]
  interval_cases k <;> simp

theorem wordXYN_mask_op (op : BitVec 4) (x y : Reg) (n : BitVec 4) :
    wordXYN op x y n &&& 0xF000#16 = wordNNN op 0 := by
  apply BitVec.eq_of_getLsbD_eq
  intro k hk
  rw [BitVec.getLsbD_and]
  simp only [wordNNN, wordXYN, BitVec.getLsbD_append]
  interval_cases k <;> simp

theorem wordXKK_mask_low (op : BitVec 4) (x : Reg) (kk : Byte) : wordXKK op x kk &&& 0xF0FF#16 = wordXKK op 0 kk := by
  apply BitVec.eq_of_getLsbD_eq
  intro k hk
  rw [BitVec.getLsbD_and]
  simp only [wordXKK, BitVec.getLsbD_append, regField_zero_getLsbD]
  interval_cases k <;> simp

theorem wordXYN_mask_low (op : BitVec 4) (x y : Reg) (n : BitVec 4) :
    wordXYN op x y n &&& 0xF00F#16 = wordXYN op 0 0 n := by
  apply BitVec.eq_of_getLsbD_eq
  intro k hk
  rw [BitVec.getLsbD_and]
  simp only [wordXYN, BitVec.getLsbD_append, regField_zero_getLsbD]
  interval_cases k <;> simp

end Sys2Proof
end

