-- ==== Sys2Proof/Laws/Framebuffer.lean ====
section
/-! SUPPORT. Reads and writes of framebuffer cells. -/

namespace Sys2Proof.Machine

theorem Framebuffer.get_outside (f : Framebuffer) {x y : Nat} (h : ¬(x < 64 ∧ y < 32)) : f.get x y = false := by
  simp [Framebuffer.get, h]

theorem Framebuffer.get_clear (x y : Nat) : Framebuffer.clear.get x y = false := by
  unfold Framebuffer.get Framebuffer.clear
  split <;> simp

/-- Reading a cell after a write to one. -/
theorem Framebuffer.get_set (f : Framebuffer) {x y : Nat} (hx : x < 64) (hy : y < 32) (b : Bool) (c d : Nat) :
    (f.set x y b).get c d = if c = x ∧ d = y then b else f.get c d := by
  have hs : f.set x y b = Vector.set f y ((f[y]'hy).set x b hx) hy := by simp [Framebuffer.set, hx, hy]
  rw [hs]
  unfold Framebuffer.get
  by_cases hcd : c < 64 ∧ d < 32
  · rw [dif_pos hcd, dif_pos hcd]
    by_cases hd : d = y
    · subst hd
      by_cases hc : c = x
      · subst hc
        simp
      · simp [hc, Ne.symm hc]
    · simp [hd, Ne.symm hd]
  · rw [dif_neg hcd, dif_neg hcd, if_neg]
    rintro ⟨rfl, rfl⟩
    exact hcd ⟨hx, hy⟩

/-- Framebuffers that agree cell by cell are equal. -/
theorem Framebuffer.eq_of_get {f g : Framebuffer} (h : ∀ x y, x < 64 → y < 32 → f.get x y = g.get x y) : f = g := by
  apply Vector.ext
  intro y hy
  apply Vector.ext
  intro x hx
  have := h x y hx hy
  simpa [Framebuffer.get, hx, hy] using this

end Sys2Proof.Machine
end

