-- ==== Sys2Proof/Laws/Draw.lean ====
section
/-! SUPPORT. What drawing does: the loops of DRW (40_display.md R103) toggle exactly the cells that a set of positions
covers, and report whether one of them was lit. -/

namespace Sys2Proof.Machine

/-- `d` is `c` with every cell that `cov` covers toggled, and its flag is raised exactly if it was or a covered cell was
lit (40_display.md R102). -/
structure Draws (cov : Nat → Nat → Prop) (c d : Framebuffer × Bool) : Prop where
  covered : ∀ p q, cov p q → d.1.get p q = !c.1.get p q
  uncovered : ∀ p q, ¬cov p q → d.1.get p q = c.1.get p q
  flag : d.2 = true ↔ c.2 = true ∨ ∃ p q, cov p q ∧ c.1.get p q = true

theorem Draws.nothing {cov : Nat → Nat → Prop} (h : ∀ p q, ¬cov p q) (c : Framebuffer × Bool) : Draws cov c c :=
  ⟨fun p q hc => absurd hc (h p q), fun _ _ _ => rfl,
    ⟨Or.inl, fun h' => h'.elim id fun ⟨p, q, hc, _⟩ => absurd hc (h p q)⟩⟩

/-- Two drawings that cover different cells make one that covers the cells of both. -/
theorem Draws.trans {cov₁ cov₂ cov : Nat → Nat → Prop} {c d e : Framebuffer × Bool} (h₁ : Draws cov₁ c d)
    (h₂ : Draws cov₂ d e) (hu : ∀ p q, cov p q ↔ cov₁ p q ∨ cov₂ p q) (hd : ∀ p q, ¬(cov₁ p q ∧ cov₂ p q)) :
    Draws cov c e := by
  refine ⟨fun p q hc => ?_, fun p q hc => ?_, ?_⟩
  · rcases (hu p q).1 hc with h | h
    · rw [h₂.uncovered p q fun h' => hd p q ⟨h, h'⟩, h₁.covered p q h]
    · rw [h₂.covered p q h, h₁.uncovered p q fun h' => hd p q ⟨h', h⟩]
  · have hn := fun h => hc ((hu p q).2 h)
    rw [h₂.uncovered p q fun h => hn (Or.inr h), h₁.uncovered p q fun h => hn (Or.inl h)]
  · rw [h₂.flag, h₁.flag]
    constructor
    · rintro ((h | ⟨p, q, hc, hl⟩) | ⟨p, q, hc, hl⟩)
      · exact Or.inl h
      · exact Or.inr ⟨p, q, (hu p q).2 (Or.inl hc), hl⟩
      · rw [h₁.uncovered p q fun h' => hd p q ⟨h', hc⟩] at hl
        exact Or.inr ⟨p, q, (hu p q).2 (Or.inr hc), hl⟩
    · rintro (h | ⟨p, q, hc, hl⟩)
      · exact Or.inl (Or.inl h)
      · rcases (hu p q).1 hc with h | h
        · exact Or.inl (Or.inr ⟨p, q, h, hl⟩)
        · refine Or.inr ⟨p, q, h, ?_⟩
          rw [h₁.uncovered p q fun h' => hd p q ⟨h', h⟩]
          exact hl

theorem drawCell_draws (c : Framebuffer × Bool) {x y : Nat} (hx : x < 64) (hy : y < 32) :
    Draws (fun p q => p = x ∧ q = y) c (drawCell c x y) := by
  unfold drawCell
  by_cases h : c.1.get x y = true
  · rw [if_pos h]
    refine ⟨?_, ?_, ?_⟩
    · rintro p q ⟨rfl, rfl⟩
      simp [Framebuffer.get_set, hx, hy, h]
    · intro p q hc
      simp [Framebuffer.get_set, hx, hy, hc]
    · exact ⟨fun _ => Or.inr ⟨x, y, ⟨rfl, rfl⟩, h⟩, fun _ => rfl⟩
  · rw [if_neg h]
    refine ⟨?_, ?_, ?_⟩
    · rintro p q ⟨rfl, rfl⟩
      simp [Framebuffer.get_set, hx, hy, h]
    · intro p q hc
      simp [Framebuffer.get_set, hx, hy, hc]
    · refine ⟨Or.inl, ?_⟩
      rintro (h' | ⟨p, q, ⟨rfl, rfl⟩, hl⟩)
      · exact h'
      · exact absurd hl h

/-- The columns j, ..., j + m - 1 of a sprite row cover the cells of that row where the byte has a 1, up to the right edge
(40_display.md R103). -/
theorem drawColumns_draws (b : Byte) (x0 : Nat) {y : Nat} (hy : y < 32) (m j : Nat) (c : Framebuffer × Bool) :
    Draws (fun p q => q = y ∧ p < 64 ∧ x0 + j ≤ p ∧ p < x0 + j + m ∧ b.getLsbD (7 - (p - x0)) = true) c
      (drawColumns b x0 y (List.range' j m) c) := by
  induction m generalizing j c with
  | zero =>
    refine Draws.nothing ?_ c
    rintro p q ⟨_, _, h1, h2, _⟩
    omega
  | succ m ih =>
    rw [List.range'_succ]
    unfold drawColumns
    split
    · rename_i hge
      refine Draws.nothing ?_ c
      rintro p q ⟨_, h1, h2, _⟩
      simp only [displayW] at hge
      omega
    · rename_i hlt
      simp only [displayW, not_le] at hlt
      split
      · rename_i hb
        refine Draws.trans (drawCell_draws c hlt hy) (ih (j + 1) _) ?_ ?_
        · intro p q
          constructor
          · rintro ⟨h1, h2, h3, h4, h5⟩
            by_cases hp : p = x0 + j
            · exact Or.inl ⟨hp, h1⟩
            · exact Or.inr ⟨h1, h2, by omega, by omega, h5⟩
          · rintro (⟨rfl, rfl⟩ | ⟨h1, h2, h3, h4, h5⟩)
            · refine ⟨rfl, hlt, Nat.le_refl _, by omega, ?_⟩
              rw [show x0 + j - x0 = j by omega]
              exact hb
            · exact ⟨h1, h2, by omega, by omega, h5⟩
        · rintro p q ⟨⟨rfl, rfl⟩, _, _, h3, _⟩
          omega
      · rename_i hb
        have := ih (j + 1) c
        refine ⟨fun p q hc => ?_, fun p q hc => ?_, ?_⟩
        · refine this.covered p q ?_
          obtain ⟨h1, h2, h3, h4, h5⟩ := hc
          refine ⟨h1, h2, ?_, by omega, h5⟩
          rcases Nat.lt_or_ge p (x0 + (j + 1)) with hp | hp
          · exfalso
            rw [show p - x0 = j by omega] at h5
            exact hb h5
          · exact hp
        · refine this.uncovered p q ?_
          rintro ⟨h1, h2, h3, h4, h5⟩
          exact hc ⟨h1, h2, by omega, by omega, h5⟩
        · rw [this.flag]
          constructor
          · rintro (h | ⟨p, q, ⟨h1, h2, h3, h4, h5⟩, hl⟩)
            · exact Or.inl h
            · exact Or.inr ⟨p, q, ⟨h1, h2, by omega, by omega, h5⟩, hl⟩
          · rintro (h | ⟨p, q, ⟨h1, h2, h3, h4, h5⟩, hl⟩)
            · exact Or.inl h
            · refine Or.inr ⟨p, q, ⟨h1, h2, ?_, by omega, h5⟩, hl⟩
              rcases Nat.lt_or_ge p (x0 + (j + 1)) with hp | hp
              · exfalso
                rw [show p - x0 = j by omega] at h5
                exact hb h5
              · exact hp

/-- The cells that the rows j, ..., j + m - 1 of a sprite at (x0, y0) cover: those inside the grid where the sprite has
a 1 (40_display.md R103). -/
def coversFrom (m : Memory) (base x0 y0 j n p q : Nat) : Prop :=
  p < 64 ∧ q < 32 ∧ x0 ≤ p ∧ p < x0 + 8 ∧ y0 + j ≤ q ∧ q < y0 + j + n ∧
  (m.read (base + (q - y0))).getLsbD (7 - (p - x0)) = true

theorem drawRows_draws (m : Memory) (base x0 y0 n j : Nat) (c : Framebuffer × Bool) :
    Draws (coversFrom m base x0 y0 j n) c (drawRows m base x0 y0 (List.range' j n) c) := by
  induction n generalizing j c with
  | zero =>
    refine Draws.nothing ?_ c
    rintro p q ⟨_, _, _, _, h1, h2, _⟩
    omega
  | succ n ih =>
    rw [List.range'_succ]
    unfold drawRows
    split
    · rename_i hge
      refine Draws.nothing ?_ c
      rintro p q ⟨_, h1, _, _, h2, _⟩
      simp only [displayH] at hge
      omega
    · rename_i hlt
      simp only [displayH, not_le] at hlt
      have hcols := drawColumns_draws (m.read (base + j)) x0 hlt 8 0 c
      rw [← List.range_eq_range'] at hcols
      refine Draws.trans hcols (ih (j + 1) _) ?_ ?_
      · intro p q
        constructor
        · rintro ⟨h1, h2, h3, h4, h5, h6, h7⟩
          by_cases hq : q = y0 + j
          · subst hq
            rw [show y0 + j - y0 = j by omega] at h7
            exact Or.inl ⟨rfl, h1, by omega, by omega, h7⟩
          · exact Or.inr ⟨h1, h2, h3, h4, by omega, by omega, h7⟩
        · rintro (⟨rfl, h1, h2, h3, h4⟩ | ⟨h1, h2, h3, h4, h5, h6, h7⟩)
          · refine ⟨h1, hlt, by omega, by omega, by omega, by omega, ?_⟩
            rw [show y0 + j - y0 = j by omega]
            exact h4
          · exact ⟨h1, h2, h3, h4, by omega, by omega, h7⟩
      · rintro p q ⟨⟨rfl, _⟩, _, _, _, _, h, _⟩
        omega

/-- The whole sprite of DRW: exactly the cells it covers are toggled, and the flag tells whether one of them was lit
(40_display.md R102, R103). -/
theorem State.drawSprite_draws (s : State) (x y : Reg) (n : Nat) :
    Draws (coversFrom s.mem s.i.toNat (s.originX x) (s.originY y) 0 n) (s.display, false) (s.drawSprite x y n) := by
  unfold State.drawSprite
  rw [List.range_eq_range']
  exact drawRows_draws _ _ _ _ _ _ _

end Sys2Proof.Machine
end

