-- ==== Sys2Proof/Laws/Memory.lean ====
section
/-! SUPPORT. What the memory operations do, and that each keeps the canonical form. -/

namespace Sys2Proof.Machine

theorem Memory.read_nil (a : Nat) : Memory.read [] a = unlistedByte := rfl

theorem Memory.read_cons (a' : Nat) (b : Byte) (m : Memory) (a : Nat) :
    Memory.read ((a', b) :: m) a = if a = a' then b else m.read a := rfl

/-- A cell put in front of memory is read at its own address, if nothing above shadows what is left out. -/
theorem Memory.read_put (a : Nat) (b : Byte) (m : Memory) (c : Nat) :
    (Memory.cons a b m).read c = if c = a ∧ b ≠ unlistedByte then b else m.read c := by
  unfold Memory.cons
  split
  · rename_i h
    simp [h]
  · rename_i h
    simp [Memory.read_cons, h]

/-- Below the first address a canonical memory may list, nothing is listed. -/
theorem Memory.read_below {lo : Nat} {m : Memory} (h : Memory.wfFrom lo m = true) {a : Nat} (ha : a < lo) :
    m.read a = unlistedByte := by
  induction m generalizing lo with
  | nil => rfl
  | cons c m ih =>
    obtain ⟨a', b⟩ := c
    simp only [Memory.wfFrom, Bool.and_eq_true, decide_eq_true_eq] at h
    rw [Memory.read_cons, if_neg (by omega)]
    exact ih h.2 (by omega)

theorem Memory.wfFrom_mono {lo lo' : Nat} {m : Memory} (h : Memory.wfFrom lo m = true) (hl : lo' ≤ lo) :
    Memory.wfFrom lo' m = true := by
  cases m with
  | nil => rfl
  | cons c m =>
    obtain ⟨a, b⟩ := c
    simp only [Memory.wfFrom, Bool.and_eq_true, decide_eq_true_eq] at h ⊢
    exact ⟨⟨⟨by omega, h.1.1.2⟩, h.1.2⟩, h.2⟩

theorem Memory.wfFrom_cons {a : Nat} {b : Byte} {m : Memory} {lo : Nat} (ha : a < memSize) (hl : lo ≤ a)
    (h : Memory.wfFrom (a + 1) m = true) : Memory.wfFrom lo (Memory.cons a b m) = true := by
  unfold Memory.cons
  split
  · exact Memory.wfFrom_mono h (by omega)
  · rename_i hb
    simp only [Memory.wfFrom, Bool.and_eq_true, decide_eq_true_eq]
    exact ⟨⟨⟨hl, ha⟩, hb⟩, h⟩

/-- A write inside memory keeps the canonical form. -/
theorem Memory.wfFrom_write {lo : Nat} {m : Memory} {a : Nat} {b : Byte} (h : Memory.wfFrom lo m = true)
    (ha : a < memSize) (hl : lo ≤ a) : Memory.wfFrom lo (m.write a b) = true := by
  induction m generalizing lo with
  | nil => exact Memory.wfFrom_cons ha hl rfl
  | cons c m ih =>
    obtain ⟨a', b'⟩ := c
    have h' := h
    simp only [Memory.wfFrom, Bool.and_eq_true, decide_eq_true_eq] at h
    obtain ⟨⟨⟨h1, h2⟩, h3⟩, h4⟩ := h
    unfold Memory.write
    split
    · rename_i hlt
      refine Memory.wfFrom_cons ha hl ?_
      simp only [Memory.wfFrom, Bool.and_eq_true, decide_eq_true_eq]
      exact ⟨⟨⟨by omega, h2⟩, h3⟩, h4⟩
    · split
      · rename_i heq
        exact Memory.wfFrom_cons ha hl (heq ▸ h4)
      · simp only [Memory.wfFrom, Bool.and_eq_true, decide_eq_true_eq]
        exact ⟨⟨⟨h1, h2⟩, h3⟩, ih h4 (by omega)⟩

theorem Memory.wf_write {m : Memory} {a : Nat} {b : Byte} (h : m.wf = true) (ha : a < memSize) :
    (m.write a b).wf = true := Memory.wfFrom_write h ha (Nat.zero_le _)

/-- A write leaves every other address alone. -/
theorem Memory.read_write_ne (m : Memory) {a c : Nat} (b : Byte) (h : c ≠ a) : (m.write a b).read c = m.read c := by
  induction m with
  | nil => simp [Memory.write, Memory.read_put, h]
  | cons x m ih =>
    obtain ⟨a', b'⟩ := x
    unfold Memory.write
    split
    · simp [Memory.read_put, h]
    · split
      · rename_i heq
        simp [Memory.read_put, Memory.read_cons, h, ← heq]
      · simp only [Memory.read_cons, ih]

theorem Memory.read_write_self_from {lo : Nat} {m : Memory} (h : Memory.wfFrom lo m = true) (a : Nat) (b : Byte) :
    (m.write a b).read a = b := by
  have put : ∀ m' : Memory, m'.read a = unlistedByte → (Memory.cons a b m').read a = b := by
    intro m' hm
    by_cases hb : b = unlistedByte
    · simp [Memory.read_put, hb, hm]
    · simp [Memory.read_put, hb]
  induction m generalizing lo with
  | nil => exact put [] rfl
  | cons x m ih =>
    obtain ⟨a', b'⟩ := x
    simp only [Memory.wfFrom, Bool.and_eq_true, decide_eq_true_eq] at h
    unfold Memory.write
    split
    · rename_i hlt
      refine put _ ?_
      rw [Memory.read_cons, if_neg (by omega)]
      exact Memory.read_below h.2 (by omega)
    · split
      · rename_i heq
        exact put _ (Memory.read_below h.2 (by omega))
      · rename_i hne
        rw [Memory.read_cons, if_neg hne]
        exact ih h.2

/-- A read after a write to the same address gives the byte written. -/
theorem Memory.read_write_self {m : Memory} (h : m.wf = true) (a : Nat) (b : Byte) : (m.write a b).read a = b :=
  Memory.read_write_self_from h a b

theorem Memory.wf_writeBytes {m : Memory} {a : Nat} {bs : List Byte} (h : m.wf = true) (ha : a + bs.length ≤ memSize) :
    (m.writeBytes a bs).wf = true := by
  induction bs generalizing m a with
  | nil => exact h
  | cons b bs ih =>
    simp only [List.length_cons] at ha
    exact ih (Memory.wf_write h (by omega)) (by omega)

/-- A write of bytes leaves every address outside them alone. -/
theorem Memory.read_writeBytes_out (m : Memory) (a : Nat) (bs : List Byte) {c : Nat}
    (hc : c < a ∨ a + bs.length ≤ c) : (m.writeBytes a bs).read c = m.read c := by
  induction bs generalizing m a with
  | nil => rfl
  | cons b bs ih =>
    simp only [List.length_cons] at hc
    unfold Memory.writeBytes
    rw [ih _ _ (by omega), Memory.read_write_ne _ _ (by omega)]

/-- A write of bytes is read back byte by byte. -/
theorem Memory.read_writeBytes_in {m : Memory} (h : m.wf = true) (a : Nat) (bs : List Byte)
    (ha : a + bs.length ≤ memSize) (k : Nat) (hk : k < bs.length) : (m.writeBytes a bs).read (a + k) = bs[k] := by
  induction bs generalizing m a k with
  | nil => simp at hk
  | cons b bs ih =>
    simp only [List.length_cons] at ha hk
    have h' := Memory.wf_write (b := b) h (show a < memSize by omega)
    unfold Memory.writeBytes
    cases k with
    | zero => rw [Memory.read_writeBytes_out _ _ _ (by omega)]; exact Memory.read_write_self h a b
    | succ k =>
      have := ih h' (a + 1) (by omega) k (by omega)
      rw [show a + (k + 1) = a + 1 + k by omega, this, List.getElem_cons_succ]

theorem bigEndian_highByte_lowByte (w : Word) : bigEndian (highByte w) (lowByte w) = w := by
  unfold bigEndian highByte lowByte
  apply BitVec.eq_of_getLsbD_eq
  intro k hk
  rw [BitVec.getLsbD_append]
  simp only [BitVec.getLsbD_extractLsb']
  by_cases h : k < 8
  · simp [h]
  · simp only [h, ↓reduceIte]
    rw [show 8 + (k - 8) = k by omega]
    simp; omega

theorem highByte_bigEndian (a b : Byte) : highByte (bigEndian a b) = a := by
  unfold bigEndian highByte
  apply BitVec.eq_of_getLsbD_eq
  intro k hk
  simp only [BitVec.getLsbD_extractLsb', BitVec.getLsbD_append, hk, decide_true, Bool.true_and]
  rw [if_neg (by omega), show 8 + k - 8 = k by omega]

theorem lowByte_bigEndian (a b : Byte) : lowByte (bigEndian a b) = b := by
  unfold bigEndian lowByte
  apply BitVec.eq_of_getLsbD_eq
  intro k hk
  simp only [BitVec.getLsbD_extractLsb', BitVec.getLsbD_append, hk, decide_true, Bool.true_and, Nat.zero_add, if_true]

/-- The byte at the lower address is the high byte (20_memory.md R60). -/
theorem bigEndian_toNat (a b : Byte) : (bigEndian a b).toNat = a.toNat * 256 + b.toNat := by
  simp only [bigEndian, BitVec.toNat_append]
  rw [Nat.shiftLeft_eq, Nat.mul_comm, ← Nat.two_pow_add_eq_or_of_lt b.isLt, Nat.mul_comm]

/-- A word written inside memory is read back (20_memory.md R60). -/
theorem Memory.readWord_writeWord {m : Memory} (h : m.wf = true) {a : Nat} (ha : a + 2 ≤ memSize) (w : Word) :
    (m.writeWord a w).readWord a = w := by
  unfold Memory.readWord Memory.writeWord
  have h0 := Memory.read_writeBytes_in h a [highByte w, lowByte w] ha 0 (by simp)
  have h1 := Memory.read_writeBytes_in h a [highByte w, lowByte w] ha 1 (by simp)
  rw [Nat.add_zero] at h0
  rw [h0, h1]
  exact bigEndian_highByte_lowByte w

theorem Memory.wfFrom_ofBytes (bs : List Byte) (a lo : Nat) (ha : a + bs.length ≤ memSize) (hl : lo ≤ a) :
    Memory.wfFrom lo (Memory.ofBytes a bs) = true := by
  induction bs generalizing a lo with
  | nil => rfl
  | cons b bs ih =>
    simp only [List.length_cons] at ha
    exact Memory.wfFrom_cons (by omega) hl (ih _ _ (by omega) (Nat.le_refl _))

/-- The memory of a byte list is canonical. -/
theorem Memory.wf_ofBytes (bs : List Byte) (a : Nat) (ha : a + bs.length ≤ memSize) : (Memory.ofBytes a bs).wf = true :=
  Memory.wfFrom_ofBytes bs a 0 ha (Nat.zero_le _)

theorem Memory.read_ofBytes_out (bs : List Byte) (a : Nat) {c : Nat} (hc : c < a ∨ a + bs.length ≤ c) :
    (Memory.ofBytes a bs).read c = unlistedByte := by
  induction bs generalizing a with
  | nil => rfl
  | cons b bs ih =>
    simp only [List.length_cons] at hc
    unfold Memory.ofBytes
    rw [Memory.read_put, if_neg (by omega)]
    exact ih _ (by omega)

theorem Memory.read_ofBytes_in (bs : List Byte) (a k : Nat) (hk : k < bs.length) :
    (Memory.ofBytes a bs).read (a + k) = bs[k] := by
  induction bs generalizing a k with
  | nil => simp at hk
  | cons b bs ih =>
    simp only [List.length_cons] at hk
    unfold Memory.ofBytes
    rw [Memory.read_put]
    cases k with
    | zero =>
      by_cases hb : b = unlistedByte
      · rw [if_neg (by simp [hb]), Memory.read_ofBytes_out _ _ (by omega)]
        simp [hb]
      · simp [hb]
    | succ k =>
      rw [if_neg (by omega), show a + (k + 1) = a + 1 + k by omega, ih (a + 1) k (by omega), List.getElem_cons_succ]

theorem Memory.eq_of_read_from {lo : Nat} {m m' : Memory} (h : Memory.wfFrom lo m = true)
    (h' : Memory.wfFrom lo m' = true) (hr : ∀ a, m.read a = m'.read a) : m = m' := by
  induction m generalizing m' lo with
  | nil =>
    cases m' with
    | nil => rfl
    | cons c m' =>
      obtain ⟨a, b⟩ := c
      simp only [Memory.wfFrom, Bool.and_eq_true, decide_eq_true_eq] at h'
      have := hr a
      simp only [Memory.read_nil, Memory.read_cons, if_true] at this
      exact absurd this.symm h'.1.2
  | cons c m ih =>
    obtain ⟨a, b⟩ := c
    simp only [Memory.wfFrom, Bool.and_eq_true, decide_eq_true_eq] at h
    cases m' with
    | nil =>
      have := hr a
      simp only [Memory.read_nil, Memory.read_cons, if_true] at this
      exact absurd this h.1.2
    | cons c' m' =>
      obtain ⟨a', b'⟩ := c'
      simp only [Memory.wfFrom, Bool.and_eq_true, decide_eq_true_eq] at h'
      have haa : a = a' := by
        rcases Nat.lt_trichotomy a a' with hlt | heq | hgt
        · have := hr a
          rw [Memory.read_cons, if_pos rfl, Memory.read_cons, if_neg (by omega),
            Memory.read_below h'.2 (by omega)] at this
          exact absurd this h.1.2
        · exact heq
        · have := hr a'
          rw [Memory.read_cons, if_neg (by omega), Memory.read_below h.2 (by omega), Memory.read_cons, if_pos rfl]
            at this
          exact absurd this.symm h'.1.2
      subst haa
      have hbb : b = b' := by simpa [Memory.read_cons] using hr a
      subst hbb
      congr 1
      refine ih h.2 h'.2 fun c => ?_
      by_cases hc : c = a
      · subst hc
        rw [Memory.read_below h.2 (by omega), Memory.read_below h'.2 (by omega)]
      · simpa [Memory.read_cons, hc] using hr c

/-- Canonical memories that read the same are the same data. -/
theorem Memory.eq_of_read {m m' : Memory} (h : m.wf = true) (h' : m'.wf = true) (hr : ∀ a, m.read a = m'.read a) :
    m = m' := Memory.eq_of_read_from h h' hr

/-- The memory that Init builds is the zeroed memory with the bytes written to it (70_reset_and_hazards.md R250). -/
theorem Memory.ofBytes_eq_writeBytes (bs : List Byte) (a : Nat) (ha : a + bs.length ≤ memSize) :
    Memory.ofBytes a bs = Memory.writeBytes [] a bs := by
  refine Memory.eq_of_read (Memory.wf_ofBytes bs a ha) (Memory.wf_writeBytes rfl ha) fun c => ?_
  by_cases hc : c < a ∨ a + bs.length ≤ c
  · rw [Memory.read_ofBytes_out bs a hc, Memory.read_writeBytes_out _ _ _ hc, Memory.read_nil]
  · obtain ⟨k, rfl⟩ : ∃ k, c = a + k := ⟨c - a, by omega⟩
    rw [Memory.read_ofBytes_in bs a k (by omega), Memory.read_writeBytes_in rfl a bs ha k (by omega)]

/-- The range check passes exactly when every byte of the access set lies in memory (20_memory.md R58). -/
theorem outOfRange_eq_false (base n : Nat) : outOfRange base n = false ↔ ∀ k, k < n → base + k < memSize := by
  simp only [outOfRange, Bool.and_eq_false_iff, decide_eq_false_iff_not]
  constructor
  · intro h k hk
    omega
  · intro h
    rcases Nat.eq_zero_or_pos n with hn | hn
    · exact Or.inl (by omega)
    · exact Or.inr (by have := h (n - 1) (by omega); omega)

theorem outOfRange_eq_true (base n : Nat) : outOfRange base n = true ↔ ∃ k, k < n ∧ memSize ≤ base + k := by
  rw [← Bool.not_eq_false, outOfRange_eq_false]
  push Not
  rfl

end Sys2Proof.Machine
end

