-- ==== Sys2Proof/Laws/State.lean ====
section
/-! SUPPORT. One lemma per field per update of the state, and how the accessors read an updated state, so that no proof
unfolds a record update. -/

namespace Sys2Proof.Machine

/-! ### setV -/

@[simp] theorem State.setV_v (s : State) (x : Reg) (b : Byte) : (s.setV x b).v = s.v.set x.val b := rfl
@[simp] theorem State.setV_i (s : State) (x : Reg) (b : Byte) : (s.setV x b).i = s.i := rfl
@[simp] theorem State.setV_pc (s : State) (x : Reg) (b : Byte) : (s.setV x b).pc = s.pc := rfl
@[simp] theorem State.setV_sp (s : State) (x : Reg) (b : Byte) : (s.setV x b).sp = s.sp := rfl
@[simp] theorem State.setV_dt (s : State) (x : Reg) (b : Byte) : (s.setV x b).dt = s.dt := rfl
@[simp] theorem State.setV_st (s : State) (x : Reg) (b : Byte) : (s.setV x b).st = s.st := rfl
@[simp] theorem State.setV_mem (s : State) (x : Reg) (b : Byte) : (s.setV x b).mem = s.mem := rfl
@[simp] theorem State.setV_display (s : State) (x : Reg) (b : Byte) : (s.setV x b).display = s.display := rfl
@[simp] theorem State.setV_keys (s : State) (x : Reg) (b : Byte) : (s.setV x b).keys = s.keys := rfl
@[simp] theorem State.setV_version (s : State) (x : Reg) (b : Byte) : (s.setV x b).version = s.version := rfl
@[simp] theorem State.setV_policy (s : State) (x : Reg) (b : Byte) : (s.setV x b).policy = s.policy := rfl
@[simp] theorem State.setV_runState (s : State) (x : Reg) (b : Byte) : (s.setV x b).runState = s.runState := rfl
@[simp] theorem State.setV_fault (s : State) (x : Reg) (b : Byte) : (s.setV x b).fault = s.fault := rfl
@[simp] theorem State.setV_events (s : State) (x : Reg) (b : Byte) : (s.setV x b).events = s.events := rfl
@[simp] theorem State.setV_romSize (s : State) (x : Reg) (b : Byte) : (s.setV x b).romSize = s.romSize := rfl
@[simp] theorem State.setV_cfg (s : State) (x : Reg) (b : Byte) : (s.setV x b).cfg = s.cfg := rfl
@[simp] theorem State.setV_drawIndex (s : State) (x : Reg) (b : Byte) : (s.setV x b).drawIndex = s.drawIndex := rfl

/-! ### setI -/

@[simp] theorem State.setI_v (s : State) (w : Word) : (s.setI w).v = s.v := rfl
@[simp] theorem State.setI_i (s : State) (w : Word) : (s.setI w).i = w := rfl
@[simp] theorem State.setI_pc (s : State) (w : Word) : (s.setI w).pc = s.pc := rfl
@[simp] theorem State.setI_sp (s : State) (w : Word) : (s.setI w).sp = s.sp := rfl
@[simp] theorem State.setI_dt (s : State) (w : Word) : (s.setI w).dt = s.dt := rfl
@[simp] theorem State.setI_st (s : State) (w : Word) : (s.setI w).st = s.st := rfl
@[simp] theorem State.setI_mem (s : State) (w : Word) : (s.setI w).mem = s.mem := rfl
@[simp] theorem State.setI_display (s : State) (w : Word) : (s.setI w).display = s.display := rfl
@[simp] theorem State.setI_keys (s : State) (w : Word) : (s.setI w).keys = s.keys := rfl
@[simp] theorem State.setI_version (s : State) (w : Word) : (s.setI w).version = s.version := rfl
@[simp] theorem State.setI_policy (s : State) (w : Word) : (s.setI w).policy = s.policy := rfl
@[simp] theorem State.setI_runState (s : State) (w : Word) : (s.setI w).runState = s.runState := rfl
@[simp] theorem State.setI_fault (s : State) (w : Word) : (s.setI w).fault = s.fault := rfl
@[simp] theorem State.setI_events (s : State) (w : Word) : (s.setI w).events = s.events := rfl
@[simp] theorem State.setI_romSize (s : State) (w : Word) : (s.setI w).romSize = s.romSize := rfl
@[simp] theorem State.setI_cfg (s : State) (w : Word) : (s.setI w).cfg = s.cfg := rfl
@[simp] theorem State.setI_drawIndex (s : State) (w : Word) : (s.setI w).drawIndex = s.drawIndex := rfl

/-! ### setPC -/

@[simp] theorem State.setPC_v (s : State) (w : Word) : (s.setPC w).v = s.v := rfl
@[simp] theorem State.setPC_i (s : State) (w : Word) : (s.setPC w).i = s.i := rfl
@[simp] theorem State.setPC_pc (s : State) (w : Word) : (s.setPC w).pc = w := rfl
@[simp] theorem State.setPC_sp (s : State) (w : Word) : (s.setPC w).sp = s.sp := rfl
@[simp] theorem State.setPC_dt (s : State) (w : Word) : (s.setPC w).dt = s.dt := rfl
@[simp] theorem State.setPC_st (s : State) (w : Word) : (s.setPC w).st = s.st := rfl
@[simp] theorem State.setPC_mem (s : State) (w : Word) : (s.setPC w).mem = s.mem := rfl
@[simp] theorem State.setPC_display (s : State) (w : Word) : (s.setPC w).display = s.display := rfl
@[simp] theorem State.setPC_keys (s : State) (w : Word) : (s.setPC w).keys = s.keys := rfl
@[simp] theorem State.setPC_version (s : State) (w : Word) : (s.setPC w).version = s.version := rfl
@[simp] theorem State.setPC_policy (s : State) (w : Word) : (s.setPC w).policy = s.policy := rfl
@[simp] theorem State.setPC_runState (s : State) (w : Word) : (s.setPC w).runState = s.runState := rfl
@[simp] theorem State.setPC_fault (s : State) (w : Word) : (s.setPC w).fault = s.fault := rfl
@[simp] theorem State.setPC_events (s : State) (w : Word) : (s.setPC w).events = s.events := rfl
@[simp] theorem State.setPC_romSize (s : State) (w : Word) : (s.setPC w).romSize = s.romSize := rfl
@[simp] theorem State.setPC_cfg (s : State) (w : Word) : (s.setPC w).cfg = s.cfg := rfl
@[simp] theorem State.setPC_drawIndex (s : State) (w : Word) : (s.setPC w).drawIndex = s.drawIndex := rfl

/-! ### setSP -/

@[simp] theorem State.setSP_v (s : State) (w : Word) : (s.setSP w).v = s.v := rfl
@[simp] theorem State.setSP_i (s : State) (w : Word) : (s.setSP w).i = s.i := rfl
@[simp] theorem State.setSP_pc (s : State) (w : Word) : (s.setSP w).pc = s.pc := rfl
@[simp] theorem State.setSP_sp (s : State) (w : Word) : (s.setSP w).sp = w := rfl
@[simp] theorem State.setSP_dt (s : State) (w : Word) : (s.setSP w).dt = s.dt := rfl
@[simp] theorem State.setSP_st (s : State) (w : Word) : (s.setSP w).st = s.st := rfl
@[simp] theorem State.setSP_mem (s : State) (w : Word) : (s.setSP w).mem = s.mem := rfl
@[simp] theorem State.setSP_display (s : State) (w : Word) : (s.setSP w).display = s.display := rfl
@[simp] theorem State.setSP_keys (s : State) (w : Word) : (s.setSP w).keys = s.keys := rfl
@[simp] theorem State.setSP_version (s : State) (w : Word) : (s.setSP w).version = s.version := rfl
@[simp] theorem State.setSP_policy (s : State) (w : Word) : (s.setSP w).policy = s.policy := rfl
@[simp] theorem State.setSP_runState (s : State) (w : Word) : (s.setSP w).runState = s.runState := rfl
@[simp] theorem State.setSP_fault (s : State) (w : Word) : (s.setSP w).fault = s.fault := rfl
@[simp] theorem State.setSP_events (s : State) (w : Word) : (s.setSP w).events = s.events := rfl
@[simp] theorem State.setSP_romSize (s : State) (w : Word) : (s.setSP w).romSize = s.romSize := rfl
@[simp] theorem State.setSP_cfg (s : State) (w : Word) : (s.setSP w).cfg = s.cfg := rfl
@[simp] theorem State.setSP_drawIndex (s : State) (w : Word) : (s.setSP w).drawIndex = s.drawIndex := rfl

/-! ### setDT -/

@[simp] theorem State.setDT_v (s : State) (b : Byte) : (s.setDT b).v = s.v := rfl
@[simp] theorem State.setDT_i (s : State) (b : Byte) : (s.setDT b).i = s.i := rfl
@[simp] theorem State.setDT_pc (s : State) (b : Byte) : (s.setDT b).pc = s.pc := rfl
@[simp] theorem State.setDT_sp (s : State) (b : Byte) : (s.setDT b).sp = s.sp := rfl
@[simp] theorem State.setDT_dt (s : State) (b : Byte) : (s.setDT b).dt = b := rfl
@[simp] theorem State.setDT_st (s : State) (b : Byte) : (s.setDT b).st = s.st := rfl
@[simp] theorem State.setDT_mem (s : State) (b : Byte) : (s.setDT b).mem = s.mem := rfl
@[simp] theorem State.setDT_display (s : State) (b : Byte) : (s.setDT b).display = s.display := rfl
@[simp] theorem State.setDT_keys (s : State) (b : Byte) : (s.setDT b).keys = s.keys := rfl
@[simp] theorem State.setDT_version (s : State) (b : Byte) : (s.setDT b).version = s.version := rfl
@[simp] theorem State.setDT_policy (s : State) (b : Byte) : (s.setDT b).policy = s.policy := rfl
@[simp] theorem State.setDT_runState (s : State) (b : Byte) : (s.setDT b).runState = s.runState := rfl
@[simp] theorem State.setDT_fault (s : State) (b : Byte) : (s.setDT b).fault = s.fault := rfl
@[simp] theorem State.setDT_events (s : State) (b : Byte) : (s.setDT b).events = s.events := rfl
@[simp] theorem State.setDT_romSize (s : State) (b : Byte) : (s.setDT b).romSize = s.romSize := rfl
@[simp] theorem State.setDT_cfg (s : State) (b : Byte) : (s.setDT b).cfg = s.cfg := rfl
@[simp] theorem State.setDT_drawIndex (s : State) (b : Byte) : (s.setDT b).drawIndex = s.drawIndex := rfl

/-! ### setST -/

@[simp] theorem State.setST_v (s : State) (b : Byte) : (s.setST b).v = s.v := rfl
@[simp] theorem State.setST_i (s : State) (b : Byte) : (s.setST b).i = s.i := rfl
@[simp] theorem State.setST_pc (s : State) (b : Byte) : (s.setST b).pc = s.pc := rfl
@[simp] theorem State.setST_sp (s : State) (b : Byte) : (s.setST b).sp = s.sp := rfl
@[simp] theorem State.setST_dt (s : State) (b : Byte) : (s.setST b).dt = s.dt := rfl
@[simp] theorem State.setST_st (s : State) (b : Byte) : (s.setST b).st = b := rfl
@[simp] theorem State.setST_mem (s : State) (b : Byte) : (s.setST b).mem = s.mem := rfl
@[simp] theorem State.setST_display (s : State) (b : Byte) : (s.setST b).display = s.display := rfl
@[simp] theorem State.setST_keys (s : State) (b : Byte) : (s.setST b).keys = s.keys := rfl
@[simp] theorem State.setST_version (s : State) (b : Byte) : (s.setST b).version = s.version := rfl
@[simp] theorem State.setST_policy (s : State) (b : Byte) : (s.setST b).policy = s.policy := rfl
@[simp] theorem State.setST_runState (s : State) (b : Byte) : (s.setST b).runState = s.runState := rfl
@[simp] theorem State.setST_fault (s : State) (b : Byte) : (s.setST b).fault = s.fault := rfl
@[simp] theorem State.setST_events (s : State) (b : Byte) : (s.setST b).events = s.events := rfl
@[simp] theorem State.setST_romSize (s : State) (b : Byte) : (s.setST b).romSize = s.romSize := rfl
@[simp] theorem State.setST_cfg (s : State) (b : Byte) : (s.setST b).cfg = s.cfg := rfl
@[simp] theorem State.setST_drawIndex (s : State) (b : Byte) : (s.setST b).drawIndex = s.drawIndex := rfl

/-! ### setMem -/

@[simp] theorem State.setMem_v (s : State) (m : Memory) : (s.setMem m).v = s.v := rfl
@[simp] theorem State.setMem_i (s : State) (m : Memory) : (s.setMem m).i = s.i := rfl
@[simp] theorem State.setMem_pc (s : State) (m : Memory) : (s.setMem m).pc = s.pc := rfl
@[simp] theorem State.setMem_sp (s : State) (m : Memory) : (s.setMem m).sp = s.sp := rfl
@[simp] theorem State.setMem_dt (s : State) (m : Memory) : (s.setMem m).dt = s.dt := rfl
@[simp] theorem State.setMem_st (s : State) (m : Memory) : (s.setMem m).st = s.st := rfl
@[simp] theorem State.setMem_mem (s : State) (m : Memory) : (s.setMem m).mem = m := rfl
@[simp] theorem State.setMem_display (s : State) (m : Memory) : (s.setMem m).display = s.display := rfl
@[simp] theorem State.setMem_keys (s : State) (m : Memory) : (s.setMem m).keys = s.keys := rfl
@[simp] theorem State.setMem_version (s : State) (m : Memory) : (s.setMem m).version = s.version := rfl
@[simp] theorem State.setMem_policy (s : State) (m : Memory) : (s.setMem m).policy = s.policy := rfl
@[simp] theorem State.setMem_runState (s : State) (m : Memory) : (s.setMem m).runState = s.runState := rfl
@[simp] theorem State.setMem_fault (s : State) (m : Memory) : (s.setMem m).fault = s.fault := rfl
@[simp] theorem State.setMem_events (s : State) (m : Memory) : (s.setMem m).events = s.events := rfl
@[simp] theorem State.setMem_romSize (s : State) (m : Memory) : (s.setMem m).romSize = s.romSize := rfl
@[simp] theorem State.setMem_cfg (s : State) (m : Memory) : (s.setMem m).cfg = s.cfg := rfl
@[simp] theorem State.setMem_drawIndex (s : State) (m : Memory) : (s.setMem m).drawIndex = s.drawIndex := rfl

/-! ### setDisplay -/

@[simp] theorem State.setDisplay_v (s : State) (f : Framebuffer) : (s.setDisplay f).v = s.v := rfl
@[simp] theorem State.setDisplay_i (s : State) (f : Framebuffer) : (s.setDisplay f).i = s.i := rfl
@[simp] theorem State.setDisplay_pc (s : State) (f : Framebuffer) : (s.setDisplay f).pc = s.pc := rfl
@[simp] theorem State.setDisplay_sp (s : State) (f : Framebuffer) : (s.setDisplay f).sp = s.sp := rfl
@[simp] theorem State.setDisplay_dt (s : State) (f : Framebuffer) : (s.setDisplay f).dt = s.dt := rfl
@[simp] theorem State.setDisplay_st (s : State) (f : Framebuffer) : (s.setDisplay f).st = s.st := rfl
@[simp] theorem State.setDisplay_mem (s : State) (f : Framebuffer) : (s.setDisplay f).mem = s.mem := rfl
@[simp] theorem State.setDisplay_display (s : State) (f : Framebuffer) : (s.setDisplay f).display = f := rfl
@[simp] theorem State.setDisplay_keys (s : State) (f : Framebuffer) : (s.setDisplay f).keys = s.keys := rfl
@[simp] theorem State.setDisplay_version (s : State) (f : Framebuffer) : (s.setDisplay f).version = s.version := rfl
@[simp] theorem State.setDisplay_policy (s : State) (f : Framebuffer) : (s.setDisplay f).policy = s.policy := rfl
@[simp] theorem State.setDisplay_runState (s : State) (f : Framebuffer) : (s.setDisplay f).runState = s.runState := rfl
@[simp] theorem State.setDisplay_fault (s : State) (f : Framebuffer) : (s.setDisplay f).fault = s.fault := rfl
@[simp] theorem State.setDisplay_events (s : State) (f : Framebuffer) : (s.setDisplay f).events = s.events := rfl
@[simp] theorem State.setDisplay_romSize (s : State) (f : Framebuffer) : (s.setDisplay f).romSize = s.romSize := rfl
@[simp] theorem State.setDisplay_cfg (s : State) (f : Framebuffer) : (s.setDisplay f).cfg = s.cfg := rfl
@[simp] theorem State.setDisplay_drawIndex (s : State) (f : Framebuffer) : (s.setDisplay f).drawIndex = s.drawIndex := rfl

/-! ### advance -/

@[simp] theorem State.advance_v (s : State) : (s.advance).v = s.v := rfl
@[simp] theorem State.advance_i (s : State) : (s.advance).i = s.i := rfl
@[simp] theorem State.advance_pc (s : State) : (s.advance).pc = s.pc + 2 := rfl
@[simp] theorem State.advance_sp (s : State) : (s.advance).sp = s.sp := rfl
@[simp] theorem State.advance_dt (s : State) : (s.advance).dt = s.dt := rfl
@[simp] theorem State.advance_st (s : State) : (s.advance).st = s.st := rfl
@[simp] theorem State.advance_mem (s : State) : (s.advance).mem = s.mem := rfl
@[simp] theorem State.advance_display (s : State) : (s.advance).display = s.display := rfl
@[simp] theorem State.advance_keys (s : State) : (s.advance).keys = s.keys := rfl
@[simp] theorem State.advance_version (s : State) : (s.advance).version = s.version := rfl
@[simp] theorem State.advance_policy (s : State) : (s.advance).policy = s.policy := rfl
@[simp] theorem State.advance_runState (s : State) : (s.advance).runState = s.runState := rfl
@[simp] theorem State.advance_fault (s : State) : (s.advance).fault = s.fault := rfl
@[simp] theorem State.advance_events (s : State) : (s.advance).events = s.events := rfl
@[simp] theorem State.advance_romSize (s : State) : (s.advance).romSize = s.romSize := rfl
@[simp] theorem State.advance_cfg (s : State) : (s.advance).cfg = s.cfg := rfl
@[simp] theorem State.advance_drawIndex (s : State) : (s.advance).drawIndex = s.drawIndex := rfl

/-! ### skipNext -/

@[simp] theorem State.skipNext_v (s : State) : (s.skipNext).v = s.v := rfl
@[simp] theorem State.skipNext_i (s : State) : (s.skipNext).i = s.i := rfl
@[simp] theorem State.skipNext_pc (s : State) : (s.skipNext).pc = s.pc + 4 := rfl
@[simp] theorem State.skipNext_sp (s : State) : (s.skipNext).sp = s.sp := rfl
@[simp] theorem State.skipNext_dt (s : State) : (s.skipNext).dt = s.dt := rfl
@[simp] theorem State.skipNext_st (s : State) : (s.skipNext).st = s.st := rfl
@[simp] theorem State.skipNext_mem (s : State) : (s.skipNext).mem = s.mem := rfl
@[simp] theorem State.skipNext_display (s : State) : (s.skipNext).display = s.display := rfl
@[simp] theorem State.skipNext_keys (s : State) : (s.skipNext).keys = s.keys := rfl
@[simp] theorem State.skipNext_version (s : State) : (s.skipNext).version = s.version := rfl
@[simp] theorem State.skipNext_policy (s : State) : (s.skipNext).policy = s.policy := rfl
@[simp] theorem State.skipNext_runState (s : State) : (s.skipNext).runState = s.runState := rfl
@[simp] theorem State.skipNext_fault (s : State) : (s.skipNext).fault = s.fault := rfl
@[simp] theorem State.skipNext_events (s : State) : (s.skipNext).events = s.events := rfl
@[simp] theorem State.skipNext_romSize (s : State) : (s.skipNext).romSize = s.romSize := rfl
@[simp] theorem State.skipNext_cfg (s : State) : (s.skipNext).cfg = s.cfg := rfl
@[simp] theorem State.skipNext_drawIndex (s : State) : (s.skipNext).drawIndex = s.drawIndex := rfl

/-! ### nextDraw -/

@[simp] theorem State.nextDraw_v (s : State) : (s.nextDraw).v = s.v := rfl
@[simp] theorem State.nextDraw_i (s : State) : (s.nextDraw).i = s.i := rfl
@[simp] theorem State.nextDraw_pc (s : State) : (s.nextDraw).pc = s.pc := rfl
@[simp] theorem State.nextDraw_sp (s : State) : (s.nextDraw).sp = s.sp := rfl
@[simp] theorem State.nextDraw_dt (s : State) : (s.nextDraw).dt = s.dt := rfl
@[simp] theorem State.nextDraw_st (s : State) : (s.nextDraw).st = s.st := rfl
@[simp] theorem State.nextDraw_mem (s : State) : (s.nextDraw).mem = s.mem := rfl
@[simp] theorem State.nextDraw_display (s : State) : (s.nextDraw).display = s.display := rfl
@[simp] theorem State.nextDraw_keys (s : State) : (s.nextDraw).keys = s.keys := rfl
@[simp] theorem State.nextDraw_version (s : State) : (s.nextDraw).version = s.version := rfl
@[simp] theorem State.nextDraw_policy (s : State) : (s.nextDraw).policy = s.policy := rfl
@[simp] theorem State.nextDraw_runState (s : State) : (s.nextDraw).runState = s.runState := rfl
@[simp] theorem State.nextDraw_fault (s : State) : (s.nextDraw).fault = s.fault := rfl
@[simp] theorem State.nextDraw_events (s : State) : (s.nextDraw).events = s.events := rfl
@[simp] theorem State.nextDraw_romSize (s : State) : (s.nextDraw).romSize = s.romSize := rfl
@[simp] theorem State.nextDraw_cfg (s : State) : (s.nextDraw).cfg = s.cfg := rfl
@[simp] theorem State.nextDraw_drawIndex (s : State) : (s.nextDraw).drawIndex = s.drawIndex + 1 := rfl

/-! ### takeFault -/

@[simp] theorem State.takeFault_v (s : State) (k : FaultKind) (w : Word) : (s.takeFault k w).v = s.v := rfl
@[simp] theorem State.takeFault_i (s : State) (k : FaultKind) (w : Word) : (s.takeFault k w).i = s.i := rfl
@[simp] theorem State.takeFault_pc (s : State) (k : FaultKind) (w : Word) : (s.takeFault k w).pc = s.pc := rfl
@[simp] theorem State.takeFault_sp (s : State) (k : FaultKind) (w : Word) : (s.takeFault k w).sp = s.sp := rfl
@[simp] theorem State.takeFault_dt (s : State) (k : FaultKind) (w : Word) : (s.takeFault k w).dt = s.dt := rfl
@[simp] theorem State.takeFault_st (s : State) (k : FaultKind) (w : Word) : (s.takeFault k w).st = s.st := rfl
@[simp] theorem State.takeFault_mem (s : State) (k : FaultKind) (w : Word) : (s.takeFault k w).mem = s.mem := rfl
@[simp] theorem State.takeFault_display (s : State) (k : FaultKind) (w : Word) : (s.takeFault k w).display = s.display := rfl
@[simp] theorem State.takeFault_keys (s : State) (k : FaultKind) (w : Word) : (s.takeFault k w).keys = s.keys := rfl
@[simp] theorem State.takeFault_version (s : State) (k : FaultKind) (w : Word) : (s.takeFault k w).version = s.version := rfl
@[simp] theorem State.takeFault_policy (s : State) (k : FaultKind) (w : Word) : (s.takeFault k w).policy = s.policy := rfl
@[simp] theorem State.takeFault_runState (s : State) (k : FaultKind) (w : Word) : (s.takeFault k w).runState = .faulted := rfl
@[simp] theorem State.takeFault_fault (s : State) (k : FaultKind) (w : Word) : (s.takeFault k w).fault = some (FaultRecord.mk k s.pc w) := rfl
@[simp] theorem State.takeFault_events (s : State) (k : FaultKind) (w : Word) : (s.takeFault k w).events = s.events ++ [Event.mk (.fault k) s.pc w] := rfl
@[simp] theorem State.takeFault_romSize (s : State) (k : FaultKind) (w : Word) : (s.takeFault k w).romSize = s.romSize := rfl
@[simp] theorem State.takeFault_cfg (s : State) (k : FaultKind) (w : Word) : (s.takeFault k w).cfg = s.cfg := rfl
@[simp] theorem State.takeFault_drawIndex (s : State) (k : FaultKind) (w : Word) : (s.takeFault k w).drawIndex = s.drawIndex := rfl

/-! ### writeResultAndFlag -/

@[simp] theorem State.writeResultAndFlag_v (s : State) (x : Reg) (r f : Byte) : (s.writeResultAndFlag x r f).v = (s.v.set x.val r).set VF.val f := rfl
@[simp] theorem State.writeResultAndFlag_i (s : State) (x : Reg) (r f : Byte) : (s.writeResultAndFlag x r f).i = s.i := rfl
@[simp] theorem State.writeResultAndFlag_pc (s : State) (x : Reg) (r f : Byte) : (s.writeResultAndFlag x r f).pc = s.pc + 2 := rfl
@[simp] theorem State.writeResultAndFlag_sp (s : State) (x : Reg) (r f : Byte) : (s.writeResultAndFlag x r f).sp = s.sp := rfl
@[simp] theorem State.writeResultAndFlag_dt (s : State) (x : Reg) (r f : Byte) : (s.writeResultAndFlag x r f).dt = s.dt := rfl
@[simp] theorem State.writeResultAndFlag_st (s : State) (x : Reg) (r f : Byte) : (s.writeResultAndFlag x r f).st = s.st := rfl
@[simp] theorem State.writeResultAndFlag_mem (s : State) (x : Reg) (r f : Byte) : (s.writeResultAndFlag x r f).mem = s.mem := rfl
@[simp] theorem State.writeResultAndFlag_display (s : State) (x : Reg) (r f : Byte) : (s.writeResultAndFlag x r f).display = s.display := rfl
@[simp] theorem State.writeResultAndFlag_keys (s : State) (x : Reg) (r f : Byte) : (s.writeResultAndFlag x r f).keys = s.keys := rfl
@[simp] theorem State.writeResultAndFlag_version (s : State) (x : Reg) (r f : Byte) : (s.writeResultAndFlag x r f).version = s.version := rfl
@[simp] theorem State.writeResultAndFlag_policy (s : State) (x : Reg) (r f : Byte) : (s.writeResultAndFlag x r f).policy = s.policy := rfl
@[simp] theorem State.writeResultAndFlag_runState (s : State) (x : Reg) (r f : Byte) : (s.writeResultAndFlag x r f).runState = s.runState := rfl
@[simp] theorem State.writeResultAndFlag_fault (s : State) (x : Reg) (r f : Byte) : (s.writeResultAndFlag x r f).fault = s.fault := rfl
@[simp] theorem State.writeResultAndFlag_events (s : State) (x : Reg) (r f : Byte) : (s.writeResultAndFlag x r f).events = s.events := rfl
@[simp] theorem State.writeResultAndFlag_romSize (s : State) (x : Reg) (r f : Byte) : (s.writeResultAndFlag x r f).romSize = s.romSize := rfl
@[simp] theorem State.writeResultAndFlag_cfg (s : State) (x : Reg) (r f : Byte) : (s.writeResultAndFlag x r f).cfg = s.cfg := rfl
@[simp] theorem State.writeResultAndFlag_drawIndex (s : State) (x : Reg) (r f : Byte) : (s.writeResultAndFlag x r f).drawIndex = s.drawIndex := rfl

/-! ### loadRegsFrom -/

@[simp] theorem State.loadRegsFrom_i (s : State) (a : Nat) (x : Reg) : (s.loadRegsFrom a x).i = s.i := by unfold State.loadRegsFrom; rfl
@[simp] theorem State.loadRegsFrom_pc (s : State) (a : Nat) (x : Reg) : (s.loadRegsFrom a x).pc = s.pc := by unfold State.loadRegsFrom; rfl
@[simp] theorem State.loadRegsFrom_sp (s : State) (a : Nat) (x : Reg) : (s.loadRegsFrom a x).sp = s.sp := by unfold State.loadRegsFrom; rfl
@[simp] theorem State.loadRegsFrom_dt (s : State) (a : Nat) (x : Reg) : (s.loadRegsFrom a x).dt = s.dt := by unfold State.loadRegsFrom; rfl
@[simp] theorem State.loadRegsFrom_st (s : State) (a : Nat) (x : Reg) : (s.loadRegsFrom a x).st = s.st := by unfold State.loadRegsFrom; rfl
@[simp] theorem State.loadRegsFrom_mem (s : State) (a : Nat) (x : Reg) : (s.loadRegsFrom a x).mem = s.mem := by unfold State.loadRegsFrom; rfl
@[simp] theorem State.loadRegsFrom_display (s : State) (a : Nat) (x : Reg) : (s.loadRegsFrom a x).display = s.display := by unfold State.loadRegsFrom; rfl
@[simp] theorem State.loadRegsFrom_keys (s : State) (a : Nat) (x : Reg) : (s.loadRegsFrom a x).keys = s.keys := by unfold State.loadRegsFrom; rfl
@[simp] theorem State.loadRegsFrom_version (s : State) (a : Nat) (x : Reg) : (s.loadRegsFrom a x).version = s.version := by unfold State.loadRegsFrom; rfl
@[simp] theorem State.loadRegsFrom_policy (s : State) (a : Nat) (x : Reg) : (s.loadRegsFrom a x).policy = s.policy := by unfold State.loadRegsFrom; rfl
@[simp] theorem State.loadRegsFrom_runState (s : State) (a : Nat) (x : Reg) : (s.loadRegsFrom a x).runState = s.runState := by unfold State.loadRegsFrom; rfl
@[simp] theorem State.loadRegsFrom_fault (s : State) (a : Nat) (x : Reg) : (s.loadRegsFrom a x).fault = s.fault := by unfold State.loadRegsFrom; rfl
@[simp] theorem State.loadRegsFrom_events (s : State) (a : Nat) (x : Reg) : (s.loadRegsFrom a x).events = s.events := by unfold State.loadRegsFrom; rfl
@[simp] theorem State.loadRegsFrom_romSize (s : State) (a : Nat) (x : Reg) : (s.loadRegsFrom a x).romSize = s.romSize := by unfold State.loadRegsFrom; rfl
@[simp] theorem State.loadRegsFrom_cfg (s : State) (a : Nat) (x : Reg) : (s.loadRegsFrom a x).cfg = s.cfg := by unfold State.loadRegsFrom; rfl
@[simp] theorem State.loadRegsFrom_drawIndex (s : State) (a : Nat) (x : Reg) : (s.loadRegsFrom a x).drawIndex = s.drawIndex := by unfold State.loadRegsFrom; rfl

/-! ### skipIf -/

@[simp] theorem State.skipIf_v (s : State) (c : Bool) : (s.skipIf c).v = s.v := by unfold State.skipIf; split <;> rfl
@[simp] theorem State.skipIf_i (s : State) (c : Bool) : (s.skipIf c).i = s.i := by unfold State.skipIf; split <;> rfl
theorem State.skipIf_pc (s : State) (c : Bool) : (s.skipIf c).pc = if c then s.pc + 4 else s.pc + 2 := by
  unfold State.skipIf; split <;> rfl
@[simp] theorem State.skipIf_sp (s : State) (c : Bool) : (s.skipIf c).sp = s.sp := by unfold State.skipIf; split <;> rfl
@[simp] theorem State.skipIf_dt (s : State) (c : Bool) : (s.skipIf c).dt = s.dt := by unfold State.skipIf; split <;> rfl
@[simp] theorem State.skipIf_st (s : State) (c : Bool) : (s.skipIf c).st = s.st := by unfold State.skipIf; split <;> rfl
@[simp] theorem State.skipIf_mem (s : State) (c : Bool) : (s.skipIf c).mem = s.mem := by unfold State.skipIf; split <;> rfl
@[simp] theorem State.skipIf_display (s : State) (c : Bool) : (s.skipIf c).display = s.display := by unfold State.skipIf; split <;> rfl
@[simp] theorem State.skipIf_keys (s : State) (c : Bool) : (s.skipIf c).keys = s.keys := by unfold State.skipIf; split <;> rfl
@[simp] theorem State.skipIf_version (s : State) (c : Bool) : (s.skipIf c).version = s.version := by unfold State.skipIf; split <;> rfl
@[simp] theorem State.skipIf_policy (s : State) (c : Bool) : (s.skipIf c).policy = s.policy := by unfold State.skipIf; split <;> rfl
@[simp] theorem State.skipIf_runState (s : State) (c : Bool) : (s.skipIf c).runState = s.runState := by unfold State.skipIf; split <;> rfl
@[simp] theorem State.skipIf_fault (s : State) (c : Bool) : (s.skipIf c).fault = s.fault := by unfold State.skipIf; split <;> rfl
@[simp] theorem State.skipIf_events (s : State) (c : Bool) : (s.skipIf c).events = s.events := by unfold State.skipIf; split <;> rfl
@[simp] theorem State.skipIf_romSize (s : State) (c : Bool) : (s.skipIf c).romSize = s.romSize := by unfold State.skipIf; split <;> rfl
@[simp] theorem State.skipIf_cfg (s : State) (c : Bool) : (s.skipIf c).cfg = s.cfg := by unfold State.skipIf; split <;> rfl
@[simp] theorem State.skipIf_drawIndex (s : State) (c : Bool) : (s.skipIf c).drawIndex = s.drawIndex := by unfold State.skipIf; split <;> rfl

/-! ### Accessors -/

@[simp] theorem State.setV_readByte (s : State) (x : Reg) (b : Byte) (a' : Nat) : (s.setV x b).readByte a' = s.readByte a' := rfl
@[simp] theorem State.setV_pixel (s : State) (x : Reg) (b : Byte) (c d : Nat) : (s.setV x b).pixel c d = s.pixel c d := rfl
@[simp] theorem State.setV_key (s : State) (x : Reg) (b : Byte) (k' : Fin 16) : (s.setV x b).key k' = s.key k' := rfl
@[simp] theorem State.setI_getV (s : State) (w : Word) (r : Reg) : (s.setI w).getV r = s.getV r := rfl
@[simp] theorem State.setI_readByte (s : State) (w : Word) (a' : Nat) : (s.setI w).readByte a' = s.readByte a' := rfl
@[simp] theorem State.setI_pixel (s : State) (w : Word) (c d : Nat) : (s.setI w).pixel c d = s.pixel c d := rfl
@[simp] theorem State.setI_key (s : State) (w : Word) (k' : Fin 16) : (s.setI w).key k' = s.key k' := rfl
@[simp] theorem State.setPC_getV (s : State) (w : Word) (r : Reg) : (s.setPC w).getV r = s.getV r := rfl
@[simp] theorem State.setPC_readByte (s : State) (w : Word) (a' : Nat) : (s.setPC w).readByte a' = s.readByte a' := rfl
@[simp] theorem State.setPC_pixel (s : State) (w : Word) (c d : Nat) : (s.setPC w).pixel c d = s.pixel c d := rfl
@[simp] theorem State.setPC_key (s : State) (w : Word) (k' : Fin 16) : (s.setPC w).key k' = s.key k' := rfl
@[simp] theorem State.setSP_getV (s : State) (w : Word) (r : Reg) : (s.setSP w).getV r = s.getV r := rfl
@[simp] theorem State.setSP_readByte (s : State) (w : Word) (a' : Nat) : (s.setSP w).readByte a' = s.readByte a' := rfl
@[simp] theorem State.setSP_pixel (s : State) (w : Word) (c d : Nat) : (s.setSP w).pixel c d = s.pixel c d := rfl
@[simp] theorem State.setSP_key (s : State) (w : Word) (k' : Fin 16) : (s.setSP w).key k' = s.key k' := rfl
@[simp] theorem State.setDT_getV (s : State) (b : Byte) (r : Reg) : (s.setDT b).getV r = s.getV r := rfl
@[simp] theorem State.setDT_readByte (s : State) (b : Byte) (a' : Nat) : (s.setDT b).readByte a' = s.readByte a' := rfl
@[simp] theorem State.setDT_pixel (s : State) (b : Byte) (c d : Nat) : (s.setDT b).pixel c d = s.pixel c d := rfl
@[simp] theorem State.setDT_key (s : State) (b : Byte) (k' : Fin 16) : (s.setDT b).key k' = s.key k' := rfl
@[simp] theorem State.setST_getV (s : State) (b : Byte) (r : Reg) : (s.setST b).getV r = s.getV r := rfl
@[simp] theorem State.setST_readByte (s : State) (b : Byte) (a' : Nat) : (s.setST b).readByte a' = s.readByte a' := rfl
@[simp] theorem State.setST_pixel (s : State) (b : Byte) (c d : Nat) : (s.setST b).pixel c d = s.pixel c d := rfl
@[simp] theorem State.setST_key (s : State) (b : Byte) (k' : Fin 16) : (s.setST b).key k' = s.key k' := rfl
@[simp] theorem State.setMem_getV (s : State) (m : Memory) (r : Reg) : (s.setMem m).getV r = s.getV r := rfl
@[simp] theorem State.setMem_pixel (s : State) (m : Memory) (c d : Nat) : (s.setMem m).pixel c d = s.pixel c d := rfl
@[simp] theorem State.setMem_key (s : State) (m : Memory) (k' : Fin 16) : (s.setMem m).key k' = s.key k' := rfl
@[simp] theorem State.setDisplay_getV (s : State) (f : Framebuffer) (r : Reg) : (s.setDisplay f).getV r = s.getV r := rfl
@[simp] theorem State.setDisplay_readByte (s : State) (f : Framebuffer) (a' : Nat) : (s.setDisplay f).readByte a' = s.readByte a' := rfl
@[simp] theorem State.setDisplay_key (s : State) (f : Framebuffer) (k' : Fin 16) : (s.setDisplay f).key k' = s.key k' := rfl
@[simp] theorem State.advance_getV (s : State) (r : Reg) : (s.advance).getV r = s.getV r := rfl
@[simp] theorem State.advance_readByte (s : State) (a' : Nat) : (s.advance).readByte a' = s.readByte a' := rfl
@[simp] theorem State.advance_pixel (s : State) (c d : Nat) : (s.advance).pixel c d = s.pixel c d := rfl
@[simp] theorem State.advance_key (s : State) (k' : Fin 16) : (s.advance).key k' = s.key k' := rfl
@[simp] theorem State.skipNext_getV (s : State) (r : Reg) : (s.skipNext).getV r = s.getV r := rfl
@[simp] theorem State.skipNext_readByte (s : State) (a' : Nat) : (s.skipNext).readByte a' = s.readByte a' := rfl
@[simp] theorem State.skipNext_pixel (s : State) (c d : Nat) : (s.skipNext).pixel c d = s.pixel c d := rfl
@[simp] theorem State.skipNext_key (s : State) (k' : Fin 16) : (s.skipNext).key k' = s.key k' := rfl
@[simp] theorem State.nextDraw_getV (s : State) (r : Reg) : (s.nextDraw).getV r = s.getV r := rfl
@[simp] theorem State.nextDraw_readByte (s : State) (a' : Nat) : (s.nextDraw).readByte a' = s.readByte a' := rfl
@[simp] theorem State.nextDraw_pixel (s : State) (c d : Nat) : (s.nextDraw).pixel c d = s.pixel c d := rfl
@[simp] theorem State.nextDraw_key (s : State) (k' : Fin 16) : (s.nextDraw).key k' = s.key k' := rfl
@[simp] theorem State.takeFault_getV (s : State) (k : FaultKind) (w : Word) (r : Reg) : (s.takeFault k w).getV r = s.getV r := rfl
@[simp] theorem State.takeFault_readByte (s : State) (k : FaultKind) (w : Word) (a' : Nat) : (s.takeFault k w).readByte a' = s.readByte a' := rfl
@[simp] theorem State.takeFault_pixel (s : State) (k : FaultKind) (w : Word) (c d : Nat) : (s.takeFault k w).pixel c d = s.pixel c d := rfl
@[simp] theorem State.takeFault_key (s : State) (k : FaultKind) (w : Word) (k' : Fin 16) : (s.takeFault k w).key k' = s.key k' := rfl
@[simp] theorem State.writeResultAndFlag_readByte (s : State) (x : Reg) (r f : Byte) (a' : Nat) : (s.writeResultAndFlag x r f).readByte a' = s.readByte a' := rfl
@[simp] theorem State.writeResultAndFlag_pixel (s : State) (x : Reg) (r f : Byte) (c d : Nat) : (s.writeResultAndFlag x r f).pixel c d = s.pixel c d := rfl
@[simp] theorem State.writeResultAndFlag_key (s : State) (x : Reg) (r f : Byte) (k' : Fin 16) : (s.writeResultAndFlag x r f).key k' = s.key k' := rfl
@[simp] theorem State.loadRegsFrom_readByte (s : State) (a : Nat) (x : Reg) (a' : Nat) : (s.loadRegsFrom a x).readByte a' = s.readByte a' := by unfold State.loadRegsFrom; rfl
@[simp] theorem State.loadRegsFrom_pixel (s : State) (a : Nat) (x : Reg) (c d : Nat) : (s.loadRegsFrom a x).pixel c d = s.pixel c d := by unfold State.loadRegsFrom; rfl
@[simp] theorem State.loadRegsFrom_key (s : State) (a : Nat) (x : Reg) (k' : Fin 16) : (s.loadRegsFrom a x).key k' = s.key k' := by unfold State.loadRegsFrom; rfl
@[simp] theorem State.skipIf_getV (s : State) (c' : Bool) (r : Reg) : (s.skipIf c').getV r = s.getV r := by unfold State.skipIf; split <;> rfl
@[simp] theorem State.skipIf_readByte (s : State) (c' : Bool) (a' : Nat) : (s.skipIf c').readByte a' = s.readByte a' := by unfold State.skipIf; split <;> rfl
@[simp] theorem State.skipIf_pixel (s : State) (c' : Bool) (c d : Nat) : (s.skipIf c').pixel c d = s.pixel c d := by unfold State.skipIf; split <;> rfl
@[simp] theorem State.skipIf_key (s : State) (c' : Bool) (k' : Fin 16) : (s.skipIf c').key k' = s.key k' := by unfold State.skipIf; split <;> rfl

/-- Reading a V register after a write to one. -/
theorem State.setV_getV (s : State) (x : Reg) (b : Byte) (r : Reg) :
    (s.setV x b).getV r = if r = x then b else s.getV r := by
  simp only [State.getV, State.setV, Vector.getElem_set, Fin.ext_iff, eq_comm]

@[simp] theorem State.setV_getV_self (s : State) (x : Reg) (b : Byte) : (s.setV x b).getV x = b := by
  simp [State.setV_getV]

theorem State.setV_getV_ne (s : State) (x : Reg) (b : Byte) (r : Reg) (h : r ≠ x) :
    (s.setV x b).getV r = s.getV r := by
  simp [State.setV_getV, h]

/-- The flag is written last and wins (10_state.md R21). -/
theorem State.writeResultAndFlag_getV (s : State) (x : Reg) (res f : Byte) (r : Reg) :
    (s.writeResultAndFlag x res f).getV r = if r = VF then f else if r = x then res else s.getV r := by
  simp only [State.writeResultAndFlag, State.advance_getV, State.setV_getV]

/-- V0 to Vx come from memory, the others stay (44_memory_index.md R187). -/
theorem State.loadRegsFrom_getV (s : State) (base : Nat) (x r : Reg) :
    (s.loadRegsFrom base x).getV r = if r ≤ x then s.readByte (base + r.val) else s.getV r := by
  simp [State.getV, State.loadRegsFrom, State.readByte]

@[simp] theorem State.setMem_readByte (s : State) (m : Memory) (a : Nat) : (s.setMem m).readByte a = m.read a := rfl

@[simp] theorem State.setDisplay_pixel (s : State) (f : Framebuffer) (x y : Nat) :
    (s.setDisplay f).pixel x y = f.get x y := rfl

/-- Two V files that agree register by register are equal. -/
theorem State.v_ext {s t : State} (h : ∀ r, t.getV r = s.getV r) : t.v = s.v := by
  apply Vector.ext
  intro k hk
  exact h ⟨k, hk⟩

end Sys2Proof.Machine
end

