-- ==== Sys2Proof/Laws/Ops.lean ====
section
/-! SUPPORT. One lemma for each shared operation that says once what it can answer. -/

namespace Sys2Proof.Machine

/-- The range check answers the effect or the fault, and never stops. -/
theorem State.checkRange_cases (s : State) (n : Nat) (w : Word) (e : State) :
    (outOfRange s.i.toNat n = true ∧ s.checkRange n w e = .next (s.takeFault .outOfRange w)) ∨
    (outOfRange s.i.toNat n = false ∧ s.checkRange n w e = .next e) := by
  unfold State.checkRange
  cases h : outOfRange s.i.toNat n
  · exact Or.inr ⟨rfl, by simp⟩
  · exact Or.inl ⟨rfl, by simp⟩

theorem State.checkRange_inside {s : State} {n : Nat} (w : Word) (e : State)
    (h : outOfRange s.i.toNat n = false) : s.checkRange n w e = .next e := by
  simp [State.checkRange, h]

theorem State.checkRange_outside {s : State} {n : Nat} (w : Word) (e : State)
    (h : outOfRange s.i.toNat n = true) : s.checkRange n w e = .next (s.takeFault .outOfRange w) := by
  simp [State.checkRange, h]

/-- CALL's push faults, stops on a stack pointer outside memory, or pushes and transfers. -/
theorem State.pushReturn_cases (s : State) (target w : Word) :
    (s.sp.toNat < s.cfg.stackLo + 2 ∧ s.pushReturn target w = .next (s.takeFault .stackOverflow w)) ∨
    (s.cfg.stackLo + 2 ≤ s.sp.toNat ∧ memSize < s.sp.toNat ∧
      s.pushReturn target w = .fault .addressOutsideMemory) ∨
    (s.cfg.stackLo + 2 ≤ s.sp.toNat ∧ s.sp.toNat ≤ memSize ∧ s.pushReturn target w =
      .next (((s.setMem (s.mem.writeWord (s.sp.toNat - 2) s.pc)).setSP (s.sp - 2)).setPC target)) := by
  unfold State.pushReturn
  split
  · exact Or.inl ⟨‹_›, rfl⟩
  · split
    · exact Or.inr (Or.inl ⟨by omega, ‹_›, rfl⟩)
    · exact Or.inr (Or.inr ⟨by omega, by omega, rfl⟩)

/-- RET's pop faults, stops on a stack pointer outside memory, or pops and transfers. -/
theorem State.popReturn_cases (s : State) (w : Word) :
    (s.cfg.stackTop < s.sp.toNat + 2 ∧ s.popReturn w = .next (s.takeFault .stackUnderflow w)) ∨
    (s.sp.toNat + 2 ≤ s.cfg.stackTop ∧ memSize < s.sp.toNat + 2 ∧ s.popReturn w = .fault .addressOutsideMemory) ∨
    (s.sp.toNat + 2 ≤ s.cfg.stackTop ∧ s.sp.toNat + 2 ≤ memSize ∧
      s.popReturn w = .next ((s.setSP (s.sp + 2)).setPC (s.mem.readWord s.sp.toNat + 2))) := by
  unfold State.popReturn
  split
  · exact Or.inl ⟨‹_›, rfl⟩
  · split
    · exact Or.inr (Or.inl ⟨by omega, ‹_›, rfl⟩)
    · exact Or.inr (Or.inr ⟨by omega, by omega, rfl⟩)

theorem State.skipIf_true (s : State) : s.skipIf true = s.skipNext := rfl

theorem State.skipIf_false (s : State) : s.skipIf false = s.advance := rfl

/-- A skip writes PC alone (41_control.md R129). -/
theorem State.skipIf_eq (s : State) (c : Bool) : s.skipIf c = s.setPC (if c then s.pc + 4 else s.pc + 2) := by
  cases c <;> rfl

/-- An unknown opcode is always reported; the policy decides what follows (30_encoding.md R80). -/
theorem State.takeUnknown_cases (s : State) (w : Word) :
    (s.policy = .skipAndReport ∧
      s.takeUnknown w = { s with events := s.events ++ [Event.mk .unknownOpcode s.pc w], pc := s.pc + 2 }) ∨
    (s.policy = .haltAndReport ∧
      s.takeUnknown w = { s with events := s.events ++ [Event.mk .unknownOpcode s.pc w], runState := .halted }) := by
  unfold State.takeUnknown
  cases h : s.policy
  · exact Or.inl ⟨rfl, by simp [State.advance, State.setPC]⟩
  · exact Or.inr ⟨rfl, by simp⟩

/-- The key found is pressed and no lower one is (43_keypad.md R172). -/
theorem State.firstKey_eq_some (s : State) (k : Fin 16) :
    s.firstKey = some k ↔ s.key k = true ∧ ∀ j, j < k → s.key j = false := by
  unfold State.firstKey
  rw [List.find?_eq_some_iff_getElem]
  constructor
  · rintro ⟨hk, n, hn, rfl, hlt⟩
    refine ⟨hk, fun j hj => ?_⟩
    have hjn : j.val < n := by simpa [Fin.lt_def] using hj
    have := hlt j.val hjn
    simpa using this
  · rintro ⟨hk, hlt⟩
    refine ⟨hk, k.val, by simp, by simp, fun j hj => ?_⟩
    have := hlt ⟨j, by omega⟩ (by simpa [Fin.lt_def] using hj)
    simpa using this

theorem State.firstKey_eq_none (s : State) : s.firstKey = none ↔ ∀ k, s.key k = false := by
  unfold State.firstKey
  rw [List.find?_eq_none]
  simp [List.mem_finRange]

theorem lowNibble_val (b : Byte) : (lowNibble b).val = b.toNat % 16 := rfl

theorem State.originX_eq (s : State) (x : Reg) : s.originX x = (s.getV x).toNat % 64 := by
  unfold State.originX
  rw [BitVec.toNat_and]
  exact Nat.and_two_pow_sub_one_eq_mod _ 6

theorem State.originY_eq (s : State) (y : Reg) : s.originY y = (s.getV y).toNat % 32 := by
  unfold State.originY
  rw [BitVec.toNat_and]
  exact Nat.and_two_pow_sub_one_eq_mod _ 5

theorem State.regsUpTo_length (s : State) (x : Reg) : (s.regsUpTo x).length = x.val + 1 := by
  simp [State.regsUpTo]

theorem State.regsUpTo_getElem (s : State) (x : Reg) (k : Nat) (h : k < (s.regsUpTo x).length) :
    (s.regsUpTo x)[k] = s.getV ⟨k, by have := s.regsUpTo_length x; omega⟩ := by
  simp [State.regsUpTo, State.getV]

theorem bcdDigits_length (v : Byte) : (bcdDigits v).length = 3 := rfl

theorem zext16_toNat (nnn : Addr12) : (zext16 nnn).toNat = nnn.toNat := by
  have := nnn.isLt
  simp [zext16]
  omega

theorem zextByte_toNat (b : Byte) : (zextByte b).toNat = b.toNat := by
  have := b.isLt
  simp [zextByte]
  omega

end Sys2Proof.Machine
end

