-- ==== Sys2Proof/Laws/PerInstr.lean ====
section
/-! SUPPORT. What holds of every instruction, one lemma per constructor. -/

namespace Sys2Proof.Laws.OpcodeRowOf

open Sys2Proof

/-- The word of the instruction matches the row of spec/opcode_table.json that carries its mnemonic (30_encoding.md R75,
R77). -/
def Statement (i : Instr) : Prop := ∃ r ∈ opcodeTable, r.mnemonic = i.mnemonic ∧ encode i &&& r.mask = r.pattern

theorem cls : Statement (.cls) :=
  ⟨⟨"CLS", 0x00E0, 0xFFFF⟩, by decide, rfl, by decide⟩

theorem ret : Statement (.ret) :=
  ⟨⟨"RET", 0x00EE, 0xFFFF⟩, by decide, rfl, by decide⟩

theorem jp (nnn : Addr12) : Statement (.jp nnn) :=
  ⟨⟨"JP_nnn", 0x1000, 0xF000⟩, by decide, rfl, wordNNN_mask_op _ _⟩

theorem call (nnn : Addr12) : Statement (.call nnn) :=
  ⟨⟨"CALL_nnn", 0x2000, 0xF000⟩, by decide, rfl, wordNNN_mask_op _ _⟩

theorem seImm (x : Reg) (kk : Byte) : Statement (.seImm x kk) :=
  ⟨⟨"SE_Vx__kk", 0x3000, 0xF000⟩, by decide, rfl, wordXKK_mask_op _ _ _⟩

theorem sneImm (x : Reg) (kk : Byte) : Statement (.sneImm x kk) :=
  ⟨⟨"SNE_Vx__kk", 0x4000, 0xF000⟩, by decide, rfl, wordXKK_mask_op _ _ _⟩

theorem seReg (x : Reg) (y : Reg) : Statement (.seReg x y) :=
  ⟨⟨"SE_Vx__Vy", 0x5000, 0xF00F⟩, by decide, rfl, wordXYN_mask_low _ _ _ _⟩

theorem ldImm (x : Reg) (kk : Byte) : Statement (.ldImm x kk) :=
  ⟨⟨"LD_Vx__kk", 0x6000, 0xF000⟩, by decide, rfl, wordXKK_mask_op _ _ _⟩

theorem addImm (x : Reg) (kk : Byte) : Statement (.addImm x kk) :=
  ⟨⟨"ADD_Vx__kk", 0x7000, 0xF000⟩, by decide, rfl, wordXKK_mask_op _ _ _⟩

theorem ldReg (x : Reg) (y : Reg) : Statement (.ldReg x y) :=
  ⟨⟨"LD_Vx__Vy", 0x8000, 0xF00F⟩, by decide, rfl, wordXYN_mask_low _ _ _ _⟩

theorem orReg (x : Reg) (y : Reg) : Statement (.orReg x y) :=
  ⟨⟨"OR_Vx__Vy", 0x8001, 0xF00F⟩, by decide, rfl, wordXYN_mask_low _ _ _ _⟩

theorem andReg (x : Reg) (y : Reg) : Statement (.andReg x y) :=
  ⟨⟨"AND_Vx__Vy", 0x8002, 0xF00F⟩, by decide, rfl, wordXYN_mask_low _ _ _ _⟩

theorem xorReg (x : Reg) (y : Reg) : Statement (.xorReg x y) :=
  ⟨⟨"XOR_Vx__Vy", 0x8003, 0xF00F⟩, by decide, rfl, wordXYN_mask_low _ _ _ _⟩

theorem addReg (x : Reg) (y : Reg) : Statement (.addReg x y) :=
  ⟨⟨"ADD_Vx__Vy", 0x8004, 0xF00F⟩, by decide, rfl, wordXYN_mask_low _ _ _ _⟩

theorem subReg (x : Reg) (y : Reg) : Statement (.subReg x y) :=
  ⟨⟨"SUB_Vx__Vy", 0x8005, 0xF00F⟩, by decide, rfl, wordXYN_mask_low _ _ _ _⟩

theorem shr (x : Reg) (y : Reg) : Statement (.shr x y) :=
  ⟨⟨"SHR_Vx____Vy", 0x8006, 0xF00F⟩, by decide, rfl, wordXYN_mask_low _ _ _ _⟩

theorem subn (x : Reg) (y : Reg) : Statement (.subn x y) :=
  ⟨⟨"SUBN_Vx__Vy", 0x8007, 0xF00F⟩, by decide, rfl, wordXYN_mask_low _ _ _ _⟩

theorem shl (x : Reg) (y : Reg) : Statement (.shl x y) :=
  ⟨⟨"SHL_Vx____Vy", 0x800E, 0xF00F⟩, by decide, rfl, wordXYN_mask_low _ _ _ _⟩

theorem sneReg (x : Reg) (y : Reg) : Statement (.sneReg x y) :=
  ⟨⟨"SNE_Vx__Vy", 0x9000, 0xF00F⟩, by decide, rfl, wordXYN_mask_low _ _ _ _⟩

theorem ldI (nnn : Addr12) : Statement (.ldI nnn) :=
  ⟨⟨"LD_I__nnn", 0xA000, 0xF000⟩, by decide, rfl, wordNNN_mask_op _ _⟩

theorem jpV0 (nnn : Addr12) : Statement (.jpV0 nnn) :=
  ⟨⟨"JP_V0__nnn", 0xB000, 0xF000⟩, by decide, rfl, wordNNN_mask_op _ _⟩

theorem rnd (x : Reg) (kk : Byte) : Statement (.rnd x kk) :=
  ⟨⟨"RND_Vx__kk", 0xC000, 0xF000⟩, by decide, rfl, wordXKK_mask_op _ _ _⟩

theorem drw (x : Reg) (y : Reg) (n : Fin 16) : Statement (.drw x y n) :=
  ⟨⟨"DRW_Vx__Vy__n", 0xD000, 0xF000⟩, by decide, rfl, wordXYN_mask_op _ _ _ _⟩

theorem skp (x : Reg) : Statement (.skp x) :=
  ⟨⟨"SKP_Vx", 0xE09E, 0xF0FF⟩, by decide, rfl, wordXKK_mask_low _ _ _⟩

theorem sknp (x : Reg) : Statement (.sknp x) :=
  ⟨⟨"SKNP_Vx", 0xE0A1, 0xF0FF⟩, by decide, rfl, wordXKK_mask_low _ _ _⟩

theorem ldVxDT (x : Reg) : Statement (.ldVxDT x) :=
  ⟨⟨"LD_Vx__DT", 0xF007, 0xF0FF⟩, by decide, rfl, wordXKK_mask_low _ _ _⟩

theorem ldVxK (x : Reg) : Statement (.ldVxK x) :=
  ⟨⟨"LD_Vx__K", 0xF00A, 0xF0FF⟩, by decide, rfl, wordXKK_mask_low _ _ _⟩

theorem ldDTVx (x : Reg) : Statement (.ldDTVx x) :=
  ⟨⟨"LD_DT__Vx", 0xF015, 0xF0FF⟩, by decide, rfl, wordXKK_mask_low _ _ _⟩

theorem ldSTVx (x : Reg) : Statement (.ldSTVx x) :=
  ⟨⟨"LD_ST__Vx", 0xF018, 0xF0FF⟩, by decide, rfl, wordXKK_mask_low _ _ _⟩

theorem addI (x : Reg) : Statement (.addI x) :=
  ⟨⟨"ADD_I__Vx", 0xF01E, 0xF0FF⟩, by decide, rfl, wordXKK_mask_low _ _ _⟩

theorem ldF (x : Reg) : Statement (.ldF x) :=
  ⟨⟨"LD_F__Vx", 0xF029, 0xF0FF⟩, by decide, rfl, wordXKK_mask_low _ _ _⟩

theorem ldB (x : Reg) : Statement (.ldB x) :=
  ⟨⟨"LD_B__Vx", 0xF033, 0xF0FF⟩, by decide, rfl, wordXKK_mask_low _ _ _⟩

theorem storeRegs (x : Reg) : Statement (.storeRegs x) :=
  ⟨⟨"LD__I___Vx", 0xF055, 0xF0FF⟩, by decide, rfl, wordXKK_mask_low _ _ _⟩

theorem loadRegs (x : Reg) : Statement (.loadRegs x) :=
  ⟨⟨"LD_Vx___I", 0xF065, 0xF0FF⟩, by decide, rfl, wordXKK_mask_low _ _ _⟩

end Sys2Proof.Laws.OpcodeRowOf
end

