-- ==== Sys2Proof/Laws/Step.lean ====
section
/-! SUPPORT. What a step, an instruction and a host action can answer, said once. -/

namespace Sys2Proof.Machine

/-! ### One equation per instruction family of one shape -/

/-- The sprite that a statement speaks of is the one that DRW's loops draw. -/
theorem State.spriteCovers_iff (s : State) (x y : Reg) (n p q : Nat) :
    s.spriteCovers x y n p q ↔ coversFrom s.mem s.i.toNat (s.originX x) (s.originY y) 0 n p q := by
  unfold State.spriteCovers coversFrom
  rw [State.originX_eq, State.originY_eq]
  simp only [Nat.add_zero, State.readByte]

/-- DRW toggles exactly the cells its sprite covers (40_display.md R102, R103). -/
theorem State.drawSprite_spec (s : State) (x y : Reg) (n : Nat) :
    Draws (s.spriteCovers x y n) (s.display, false) (s.drawSprite x y n) := by
  have h := s.drawSprite_draws x y n
  have e : s.spriteCovers x y n = coversFrom s.mem s.i.toNat (s.originX x) (s.originY y) 0 n := by
    funext p q
    exact propext (s.spriteCovers_iff x y n p q)
  rw [e]
  exact h

/-- What an instruction can answer: a fault taken with its own opcode, a stop on a stack pointer outside memory, or a next
state that keeps the keys, the configuration and the lifecycle. -/
theorem exec_cases (i : Instr) (s : State) :
    (∃ k, exec i s = .next (s.takeFault k (encode i))) ∨ exec i s = .fault .addressOutsideMemory ∨
    (∃ t, exec i s = .next t ∧ s.sameControl t) := by
  have ok : ∀ t, exec i s = .next t → s.sameControl t → _ := fun t h hc =>
    (Or.inr (Or.inr ⟨t, h, hc⟩) : (∃ k, exec i s = .next (s.takeFault k (encode i))) ∨
      exec i s = .fault .addressOutsideMemory ∨ (∃ t, exec i s = .next t ∧ s.sameControl t))
  have range : ∀ n e, exec i s = s.checkRange n (encode i) e → s.sameControl e → _ := fun n e h hc =>
    (s.checkRange_cases n (encode i) e).elim (fun h' => Or.inl ⟨_, h.trans h'.2⟩) (fun h' => ok e (h.trans h'.2) hc)
  cases i with
  | ret =>
    rcases s.popReturn_cases (encode .ret) with ⟨_, h⟩ | ⟨_, _, h⟩ | ⟨_, _, h⟩
    · exact Or.inl ⟨_, h⟩
    · exact Or.inr (Or.inl h)
    · exact ok _ h (by simp [State.sameControl])
  | call nnn =>
    rcases s.pushReturn_cases (zext16 nnn) (encode (.call nnn)) with ⟨_, h⟩ | ⟨_, _, h⟩ | ⟨_, _, h⟩
    · exact Or.inl ⟨_, h⟩
    · exact Or.inr (Or.inl h)
    · exact ok _ h (by simp [State.sameControl])
  | drw x y n => exact range _ _ rfl (by simp [State.sameControl])
  | ldB x => exact range _ _ rfl (by simp [State.sameControl])
  | storeRegs x => exact range _ _ rfl (by simp [State.sameControl])
  | loadRegs x => exact range _ _ rfl (by simp [State.sameControl])
  | ldVxK x =>
    cases h : s.firstKey with
    | none => exact ok s (by simp [exec, execLdVxK, h]) (by simp [State.sameControl])
    | some k =>
      exact ok (s.setV x (BitVec.ofNat 8 k.val)).advance (by simp [exec, execLdVxK, h]) (by simp [State.sameControl])
  | _ => exact ok _ rfl (by simp [State.sameControl])

/-! ### The step -/

theorem step_of_running {s : State} (hc : s.cfg.wf = true) (hr : s.runState = .running) :
    step s = fetchAndExecute s := by
  simp [step, cycle, hc, hr]

/-- A step that answers a next state is taken in Running, under a legal configuration. -/
theorem step_next_enabled {s t : State} (h : step s = .next t) :
    s.cfg.wf = true ∧ s.runState = .running ∧ fetchAndExecute s = .next t := by
  unfold step cycle at h
  split at h
  · cases h
  · rename_i hc
    split at h
    · rename_i hr
      exact ⟨by simpa using hc, hr, h⟩
    · cases h

/-- What a step that answers a next state has done: a fetch fault, an unknown opcode reported, or the decoded instruction. -/
theorem step_next_cases {s t : State} (h : step s = .next t) :
    (∃ k, s.fetchFault = some k ∧ t = s.takeFault k 0) ∨
    (s.fetchFault = none ∧ decode s.fetchWord = none ∧ t = s.takeUnknown s.fetchWord) ∨
    (∃ i, s.fetchFault = none ∧ decode s.fetchWord = some i ∧ exec i s = .next t) := by
  obtain ⟨_, _, h⟩ := step_next_enabled h
  unfold fetchAndExecute at h
  split at h
  · rename_i k hk
    exact Or.inl ⟨k, hk, by injection h with h; exact h.symm⟩
  · rename_i hk
    unfold executeWord at h
    split at h
    · rename_i hd
      exact Or.inr (Or.inl ⟨hk, hd, by injection h with h; exact h.symm⟩)
    · rename_i i hd
      exact Or.inr (Or.inr ⟨i, hk, hd, h⟩)

theorem fetchFault_eq_none {s : State} :
    s.fetchFault = none ↔ s.pc.toNat % 2 = 0 ∧ s.pc.toNat + 1 < memSize := by
  unfold State.fetchFault
  split
  · rename_i h
    simp only [reduceCtorEq, false_iff]
    omega
  · split
    · rename_i h1 h2
      simp only [reduceCtorEq, false_iff]
      omega
    · simp only [true_iff]
      omega

/-! ### The trace -/

/-- There is a trace record exactly where a step is taken whose fetch succeeds, and what it holds (60_exceptions.md R235). -/
theorem traceRecord_eq_some {s : State} {r : TraceRecord} :
    traceRecord s = some r ↔
      (∃ t, step s = .next t) ∧ s.fetchFault = none ∧ r = ⟨s.pc, s.fetchWord, decode s.fetchWord⟩ := by
  unfold traceRecord State.fetchedRecord
  cases h : step s <;> cases hf : s.fetchFault <;> simp [eq_comm]

/-- No step, no trace record: outside Running there is none (60_exceptions.md R235, R241). -/
theorem traceRecord_of_not_running {s : State} (h : s.runState ≠ .running) : traceRecord s = none := by
  cases hr : traceRecord s with
  | none => rfl
  | some r =>
    obtain ⟨⟨t, ht⟩, _⟩ := traceRecord_eq_some.1 hr
    exact absurd (step_next_enabled ht).2.1 h

/-! ### The configuration -/

/-- The bounds of 00_scope.md R9 that a legal configuration has. -/
theorem config_wf_bounds {c : Config} (h : c.wf = true) :
    c.stackLo ≤ c.stackTop ∧ c.stackTop ≤ memSize ∧ (c.stackTop - c.stackLo) % 2 = 0 ∧ userBase ≤ c.userEnd ∧
    c.userEnd ≤ memSize ∧ c.fontBase + c.fontData.length ≤ memSize := by
  simp only [Config.wf, Config.stackInMemory, Config.stackEven, Config.userInMemory, Config.fontInMemory,
    Bool.and_eq_true, decide_eq_true_eq] at h
  obtain ⟨⟨⟨⟨⟨h1, h2⟩, h3⟩, h4, h5⟩, h6⟩, -⟩ := h
  exact ⟨h1, h2, h3, h4, h5, h6⟩

/-! ### The host's actions -/

theorem hostInit_eq_ok {s t : State} {v : Version} {p : UnknownOpcodePolicy} :
    hostInit s v p = .ok t ↔ s.cfg.wf = true ∧ t = State.afterInit s.cfg v p s.drawIndex := by
  unfold hostInit
  split
  · rename_i h
    simp [h, eq_comm]
  · rename_i h
    simp [h]

theorem hostSetKey_eq_ok {s t : State} {k : Fin 16} {b : Bool} :
    hostSetKey s k b = .ok t ↔ s.runState ≠ .uninitialized ∧ t = { s with keys := s.keys.set k.val b } := by
  unfold hostSetKey
  split
  · rename_i h
    simp [h]
  · rename_i h
    simp [h, eq_comm]

theorem hostInstallRom_eq_ok {s t : State} {bs : List Byte} :
    hostInstallRom s bs = .ok t ↔ s.runState ≠ .uninitialized ∧ bs.length ≤ s.cfg.userEnd - userBase ∧
      t = { s with mem := s.mem.writeBytes userBase bs, romSize := bs.length } := by
  unfold hostInstallRom
  split
  · rename_i h
    simp [h]
  · rename_i h
    split
    · rename_i h'
      simp [h]
      omega
    · rename_i h'
      simp only [Except.ok.injEq, ne_eq, h, not_false_eq_true, true_and]
      constructor
      · rintro rfl
        exact ⟨by omega, rfl⟩
      · rintro ⟨_, rfl⟩
        rfl

end Sys2Proof.Machine
end

