-- ==== Sys2Proof/Tests/Slice0.lean ====
section
/-! SUPPORT. Tests whose expected results are the spec's own vectors (95_test_vectors.md, named in each comment), a smoke
test of every configuration check, and a witness for the hypotheses of every statement that has some. -/

namespace Sys2Proof.Tests

open Sys2Proof.Machine

set_option Elab.async false

/-! ## Small states -/

/-- The reference configuration with an empty font table, so that memory starts with nothing listed. -/
def cfg0 : Config := { Config.ref with fontData := [] }

/-- A running state, PC = 0x200, SP = 0xF00, everything else zero. -/
def s0 : State := State.afterInit cfg0 .chip8 .skipAndReport 0

/-- `s0` under a version whose SHIFT_MODE is InPlace. -/
def s0InPlace : State := State.afterInit cfg0 .superChipLegacy .skipAndReport 0

/-- The two sprite rows of V-D1 to V-D5 at 0x300, and I there. -/
def sprite : State := (s0.setMem [(0x300, 0xC0), (0x301, 0x80)]).setI 0x300

/-- A cell lit. -/
def lit (s : State) (x y : Nat) : State := s.setDisplay (s.display.set x y true)

/-- The cells of `xs` are lit and every cell of the first three rows and columns that is not in `xs` is unlit. -/
def litExactly (s : State) (xs : List (Nat × Nat)) : Bool :=
  xs.all (fun c => s.pixel c.1 c.2) &&
  (List.range 6).all fun x => (List.range 4).all fun y => s.pixel x y == decide ((x, y) ∈ xs)

/-- One step with the word `w` at PC answers a next state of which `p` holds. -/
def after (s : State) (w : Nat) (p : State → Bool) : Bool :=
  match step (s.withFetchWord 16 w) with
  | .next t => p t
  | _ => false

/-! ## WellFormed: an ill-formed configuration for each check -/

theorem test_wf_ref : Config.ref.wf = true := by decide
theorem test_wf_stack_order : Config.wf { cfg0 with stackLo := 0xF02 } = false := by decide
theorem test_wf_stack_beyond_memory : Config.wf { cfg0 with stackTop := 0x1002 } = false := by decide
theorem test_wf_stack_odd : Config.wf { cfg0 with stackLo := 0xEA1, userEnd := 0xEA0 } = false := by decide
theorem test_wf_user_order : Config.wf { cfg0 with userEnd := 0x1FF } = false := by decide
theorem test_wf_user_beyond_memory : Config.wf { cfg0 with userEnd := 0x1001, stackLo := 0x100, stackTop := 0x100 } = false := by
  decide
theorem test_wf_font_beyond_memory : Config.wf { Config.ref with fontBase := 0xFB1 } = false := by decide
theorem test_wf_font_in_user_area : Config.wf { Config.ref with fontBase := 0x1B1 } = false := by decide
theorem test_wf_font_in_stack : Config.wf { Config.ref with fontBase := 0xEFF } = false := by decide
theorem test_wf_user_area_in_stack : Config.wf { cfg0 with userEnd := 0xEA1 } = false := by decide

/-! ## Decoding: words written out from the layouts of 30_encoding.md R72 and R75, one for every constructor -/

/-- V-E1, V-E2, V-E3, V-E4, V-E5. -/
theorem test_decode_zero_group :
    decode 0x00E0 = some .cls ∧ decode 0x00EE = some .ret ∧ decode 0x00E1 = none ∧ decode 0x0123 = none ∧
    decode 0x00FF = none := by decide

/-- R76: 1208, A20A; V-C5, V-E12. -/
theorem test_decode_nnn :
    decode 0b0001001000001000 = some (.jp 0x208) ∧ decode 0b0010001100000000 = some (.call 0x300) ∧
    decode 0b1010001000001010 = some (.ldI 0x20A) ∧ decode 0b1011000100100011 = some (.jpV0 0x123) := by decide

/-- V-C10, V-C12, R76: 620A, V-A16, V-A31. -/
theorem test_decode_xkk :
    decode 0b0011001101000010 = some (.seImm 3 0x42) ∧ decode 0b0100001101000010 = some (.sneImm 3 0x42) ∧
    decode 0b0110001000001010 = some (.ldImm 2 0x0A) ∧ decode 0b0111000100000010 = some (.addImm 1 0x02) ∧
    decode 0b1100000100001111 = some (.rnd 1 0x0F) := by decide

/-- V-C14, V-C16, V-E6, V-E7. -/
theorem test_decode_xy_skips :
    decode 0b0101000100100000 = some (.seReg 1 2) ∧ decode 0b1001000100100000 = some (.sneReg 1 2) ∧
    decode 0x5121 = none ∧ decode 0x9121 = none := by decide

/-- V-A2, V-A17 to V-A19, V-A3, V-A8, V-E11, V-A12, V-A24, V-E8. -/
theorem test_decode_alu :
    decode 0b1000000100100000 = some (.ldReg 1 2) ∧ decode 0b1000000100100001 = some (.orReg 1 2) ∧
    decode 0b1000000100100010 = some (.andReg 1 2) ∧ decode 0b1000000100100011 = some (.xorReg 1 2) ∧
    decode 0b1000000100100100 = some (.addReg 1 2) ∧ decode 0b1000000100100101 = some (.subReg 1 2) ∧
    decode 0b1000000100100110 = some (.shr 1 2) ∧ decode 0b1000000100100111 = some (.subn 1 2) ∧
    decode 0b1000000100101110 = some (.shl 1 2) ∧ decode 0x8008 = none ∧ decode 0x800F = none := by decide

/-- R76: D125; V-E10. -/
theorem test_decode_drw : decode 0b1101000100100101 = some (.drw 1 2 5) ∧ decode 0xD120 = some (.drw 1 2 0) := by decide

/-- V-K1, V-K3, V-E9. -/
theorem test_decode_keys :
    decode 0b1110001010011110 = some (.skp 2) ∧ decode 0b1110001010100001 = some (.sknp 2) ∧ decode 0xE09F = none := by
  decide

/-- V-T1 to V-T3, V-K5, V-M2, V-M4, V-M5, V-M8, V-M12, V-E9. -/
theorem test_decode_misc :
    decode 0b1111001100000111 = some (.ldVxDT 3) ∧ decode 0b1111010100001010 = some (.ldVxK 5) ∧
    decode 0b1111001100010101 = some (.ldDTVx 3) ∧ decode 0b1111001100011000 = some (.ldSTVx 3) ∧
    decode 0b1111000100011110 = some (.addI 1) ∧ decode 0b1111000100101001 = some (.ldF 1) ∧
    decode 0b1111000100110011 = some (.ldB 1) ∧ decode 0b1111001001010101 = some (.storeRegs 2) ∧
    decode 0b1111001001100101 = some (.loadRegs 2) ∧ decode 0xF0FF = none ∧ decode 0xF075 = none := by decide

/-- Bytes: two to an instruction, high byte first; one byte is too few (30_encoding.md R70). -/
theorem test_decode_bytes :
    decodeBytes [0xA2, 0x0A, 0x61] = .ok (.ldI 0x20A, [0x61]) ∧ decodeBytes [0xA2] = .error .truncated ∧
    decodeBytes [0x51, 0x21] = .error (.unknownOpcode 0x5121) ∧ encodeBytes (.ldI 0x20A) = [0xA2, 0x0A] := by decide

theorem test_decode_table_word :
    decodeTableWord 16 0xD125 = some (.drw 1 2 5) ∧ decodeTableWord 16 0x0123 = none := by decide

/-! ## Display (40_display.md) -/

/-- V-D13, W2. -/
theorem test_cls : after (lit s0 3 3) 0x00E0 (fun t => t.pixel 3 3 == false && t.pc == 0x202) = true := by decide +kernel

/-- V-D9: the origin is the old VF; (2,0) collides. -/
theorem test_drw_origin_in_vf :
    after (lit (sprite.setV 15 2) 2 0) 0xDF12 (fun t => litExactly t [(3, 0), (2, 1)] && t.getV 15 == 1) = true := by
  decide +kernel

/-- V-D3: the column past the right edge is clipped, not wrapped. -/
theorem test_drw_clips :
    after (sprite.setV 0 63) 0xD012
      (fun t => litExactly t [(63, 0), (63, 1)] && t.getV 15 == 0 && t.pc == 0x202 && t.i == 0x300) = true := by
  decide +kernel

/-! ## Control transfer and skips (41_control.md) -/

/-- V-C9: the popped address wraps; the stack bytes stay. -/
theorem test_ret_wraps :
    after ((s0.setSP 0xEFE).setMem [(0xEFE, 0xFF), (0xEFF, 0xFE)]) 0x00EE
      (fun t => t.pc == 0 && t.sp == 0xF00 && t.readByte 0xEFE == 0xFF) = true := by decide +kernel

/-- V-C8. -/
theorem test_ret_underflow :
    after s0 0x00EE (fun t => t.fault == some ⟨.stackUnderflow, 0x200, 0x00EE⟩ && t.sp == 0xF00 && t.pc == 0x200 &&
      t.events == [⟨.fault .stackUnderflow, 0x200, 0x00EE⟩] && t.runState == .faulted) = true := by decide +kernel

/-- V-C1. -/
theorem test_jp : after s0 0x1ABC (fun t => t.pc == 0xABC) = true := by decide +kernel

/-- V-C4: no wrap at 12 bits. -/
theorem test_jpV0 : after (s0.setV 0 0xFF) 0xBFFF (fun t => t.pc == 0x10FE) = true := by decide +kernel

/-- V-C5: the address of the CALL itself, high byte at the lower address. -/
theorem test_call :
    after (s0.setPC 0x204) 0x2300 (fun t =>
      t.readByte 0xEFE == 0x02 && t.readByte 0xEFF == 0x04 && t.sp == 0xEFE && t.pc == 0x300) = true := by decide +kernel

/-- V-C6: a full stack. -/
theorem test_call_overflow :
    after ((s0.setPC 0x204).setSP 0xEA0) 0x2300 (fun t => t.fault == some ⟨.stackOverflow, 0x204, 0x2300⟩ &&
      t.sp == 0xEA0 && t.pc == 0x204 && t.readByte 0xE9E == 0) = true := by decide +kernel

/-- V-C10, V-C11. -/
theorem test_seImm :
    after (s0.setV 3 0x42) 0x3342 (fun t => t.pc == 0x204) = true ∧
    after (s0.setV 3 0x41) 0x3342 (fun t => t.pc == 0x202) = true := by decide +kernel

/-- V-C12, V-C13. -/
theorem test_sneImm :
    after (s0.setV 3 0x42) 0x4342 (fun t => t.pc == 0x202) = true ∧
    after (s0.setV 3 0x42) 0x4300 (fun t => t.pc == 0x204) = true := by decide +kernel

/-- V-C14 and its complement. -/
theorem test_seReg :
    after ((s0.setV 1 7).setV 2 7) 0x5120 (fun t => t.pc == 0x204) = true ∧
    after ((s0.setV 1 7).setV 2 8) 0x5120 (fun t => t.pc == 0x202) = true := by decide +kernel

/-- V-C16, V-C17. -/
theorem test_sneReg :
    after ((s0.setV 1 7).setV 2 8) 0x9120 (fun t => t.pc == 0x204) = true ∧
    after (s0.setV 1 7) 0x9110 (fun t => t.pc == 0x202) = true := by decide +kernel

/-! ## Moves, RND, arithmetic, logic, shifts (42_alu.md) -/

/-- V-A1. -/
theorem test_ldImm : after s0 0x6FAB (fun t => t.getV 15 == 0xAB && t.pc == 0x202) = true := by decide +kernel

/-- V-A2. -/
theorem test_ldReg : after (s0.setV 2 0x33) 0x8120 (fun t => t.getV 1 == 0x33) = true := by decide +kernel

/-- V-A32: every draw masked with 0 is 0. -/
theorem test_rnd_zero_mask : ∃ t, exec (.rnd 1 0x00) s0 = .next t ∧ t.getV 1 = 0 ∧ t.pc = 0x202 := by
  refine ⟨_, rfl, ?_, rfl⟩
  change Config.draw 0 &&& 0#8 = 0
  simp

/-- V-A33: the draw itself, and the next RND draws afresh. -/
theorem test_rnd_full_mask :
    ∃ t, exec (.rnd 1 0xFF) s0 = .next t ∧ t.getV 1 = Config.draw 0 ∧ t.drawIndex = 1 := by
  refine ⟨_, rfl, ?_, rfl⟩
  change Config.draw 0 &&& BitVec.allOnes 8 = Config.draw 0
  exact BitVec.and_allOnes

/-- V-A16: no carry into VF. -/
theorem test_addImm :
    after ((s0.setV 1 0xFF).setV 15 0x5A) 0x7102 (fun t => t.getV 1 == 0x01 && t.getV 15 == 0x5A) = true := by
  decide +kernel

/-- V-A17. -/
theorem test_orReg :
    after (((s0.setV 1 0x0C).setV 2 0x0A).setV 15 1) 0x8121 (fun t => t.getV 1 == 0x0E && t.getV 15 == 0) = true := by
  decide +kernel

/-- V-A18. -/
theorem test_andReg :
    after (((s0.setV 1 0x0C).setV 2 0x0A).setV 15 1) 0x8122 (fun t => t.getV 1 == 0x08 && t.getV 15 == 0) = true := by
  decide +kernel

/-- V-A19. -/
theorem test_xorReg :
    after (((s0.setV 1 0x0C).setV 2 0x0A).setV 15 1) 0x8123 (fun t => t.getV 1 == 0x06 && t.getV 15 == 0) = true := by
  decide +kernel

/-- V-A5. -/
theorem test_addReg_no_carry :
    after (((s0.setV 1 0x7F).setV 2 1).setV 15 1) 0x8124 (fun t => t.getV 1 == 0x80 && t.getV 15 == 0) = true := by
  decide +kernel

/-- V-A6: the carry wins over the sum. -/
theorem test_addReg_into_vf :
    after ((s0.setV 15 0xF0).setV 1 0x20) 0x8F14 (fun t => t.getV 15 == 1 && t.getV 1 == 0x20) = true := by decide +kernel

/-- V-A8, V-A9. -/
theorem test_subReg :
    after ((s0.setV 1 3).setV 2 5) 0x8125 (fun t => t.getV 1 == 0xFE && t.getV 15 == 0) = true ∧
    after ((s0.setV 1 5).setV 2 5) 0x8125 (fun t => t.getV 1 == 0 && t.getV 15 == 1) = true := by decide +kernel

/-- V-A12, V-A13. -/
theorem test_subn :
    after ((s0.setV 1 3).setV 2 5) 0x8127 (fun t => t.getV 1 == 0x02 && t.getV 15 == 1) = true ∧
    after ((s0.setV 1 5).setV 2 3) 0x8127 (fun t => t.getV 1 == 0xFE && t.getV 15 == 0) = true := by decide +kernel

/-- V-A21: InPlace. -/
theorem test_shr_inPlace :
    after ((s0InPlace.setV 1 0x05).setV 2 0xFF) 0x8126
      (fun t => t.getV 1 == 0x02 && t.getV 15 == 1 && t.getV 2 == 0xFF) = true := by decide +kernel

/-- V-A22: CopyThenShift. -/
theorem test_shr_copy :
    after ((s0.setV 1 0x05).setV 2 0xFF) 0x8126
      (fun t => t.getV 1 == 0x7F && t.getV 15 == 1 && t.getV 2 == 0xFF) = true := by decide +kernel

/-- V-A23: InPlace. -/
theorem test_shl_inPlace :
    after ((s0InPlace.setV 1 0x81).setV 2 0x40) 0x812E (fun t => t.getV 1 == 0x02 && t.getV 15 == 1) = true := by
  decide +kernel

/-- V-A28: CopyThenShift, the source is the old VF. -/
theorem test_shl_copy_from_vf :
    after ((s0.setV 1 0x01).setV 15 0x80) 0x81FE (fun t => t.getV 1 == 0 && t.getV 15 == 1) = true := by decide +kernel

/-! ## Keypad (43_keypad.md) -/

/-- V-K2: the high nibble is ignored. -/
theorem test_skp :
    after { s0.setV 2 0x15 with keys := s0.keys.set 5 true } 0xE29E (fun t => t.pc == 0x204) = true := by decide +kernel

/-- V-K3, V-K4. -/
theorem test_sknp :
    after (s0.setV 2 0xF5) 0xE2A1 (fun t => t.pc == 0x204) = true ∧
    after { s0.setV 2 0xF5 with keys := s0.keys.set 5 true } 0xE2A1 (fun t => t.pc == 0x202) = true := by decide +kernel

/-- V-K5: the lowest index wins. -/
theorem test_ldVxK_lowest :
    after { s0.setPC 0x210 with keys := (s0.keys.set 3 true).set 9 true } 0xF50A
      (fun t => t.getV 5 == 3 && t.pc == 0x212 && t.key 3) = true := by decide +kernel

/-- V-K6: no key, no change. -/
theorem test_ldVxK_none : exec (.ldVxK 5) (s0.setPC 0x210) = .next (s0.setPC 0x210) := by rfl

/-! ## Index and memory (44_memory_index.md) -/

/-- V-M1. -/
theorem test_ldI : after s0 0xA20A (fun t => t.i == 0x20A) = true := by decide +kernel

/-- V-M2. -/
theorem test_addI :
    after (((s0.setI 0xFFF).setV 1 1).setV 15 0x5A) 0xF11E (fun t => t.i == 0x1000 && t.getV 15 == 0x5A) = true := by
  decide +kernel

/-- V-M4: FONT_BASE 0, stride 5, the high nibble ignored. -/
theorem test_ldF : after (s0.setV 1 0x1A) 0xF129 (fun t => t.i == 0x032) = true := by decide +kernel

/-- V-M6: the last three bytes of memory. -/
theorem test_ldB :
    after ((s0.setI 0xFFD).setV 1 255) 0xF133 (fun t =>
      t.readByte 0xFFD == 2 && t.readByte 0xFFE == 5 && t.readByte 0xFFF == 5 && t.i == 0xFFD) = true := by decide +kernel

/-- V-M7. -/
theorem test_ldB_out_of_range :
    after ((s0.setI 0xFFE).setV 1 1) 0xF133 (fun t =>
      t.fault == some ⟨.outOfRange, 0x200, 0xF133⟩ && t.readByte 0xFFF == 0 && t.pc == 0x200) = true := by decide +kernel

/-- V-M8. -/
theorem test_storeRegs :
    after ((((s0.setI 0x300).setV 0 1).setV 1 2).setV 2 3) 0xF255 (fun t =>
      t.readByte 0x300 == 1 && t.readByte 0x301 == 2 && t.readByte 0x302 == 3 && t.readByte 0x303 == 0 &&
      t.i == 0x303) = true := by decide +kernel

/-- V-M10: no byte is written before the check. -/
theorem test_storeRegs_out_of_range :
    after ((s0.setI 0xFFF).setV 0 9) 0xF155 (fun t =>
      t.fault == some ⟨.outOfRange, 0x200, 0xF155⟩ && t.readByte 0xFFF == 0 && t.i == 0xFFF) = true := by decide +kernel

/-- V-M12; V3 stays. -/
theorem test_loadRegs :
    after (((s0.setI 0x300).setMem [(0x300, 1), (0x301, 2), (0x302, 3), (0x303, 4)]).setV 3 0x77) 0xF265 (fun t =>
      t.getV 0 == 1 && t.getV 1 == 2 && t.getV 2 == 3 && t.getV 3 == 0x77 && t.i == 0x303) = true := by decide +kernel

/-- V-M13: VF is loaded as data. -/
theorem test_loadRegs_vf :
    after (((s0.setI 0x300).setMem [(0x30F, 0x77)]).setV 15 1) 0xFF65 (fun t =>
      t.getV 15 == 0x77 && t.getV 14 == 0 && t.i == 0x310) = true := by decide +kernel

/-! ## Timers (45_timers.md) -/

/-- V-T1. -/
theorem test_ldVxDT : after (s0.setDT 0x3C) 0xF307 (fun t => t.getV 3 == 0x3C && t.dt == 0x3C) = true := by
  decide +kernel

/-- V-T2. -/
theorem test_ldDTVx : after (s0.setV 3 0x3C) 0xF315 (fun t => t.dt == 0x3C && t.st == 0) = true := by decide +kernel

/-- V-T3. -/
theorem test_ldSTVx : after (s0.setV 3 0x05) 0xF318 (fun t => t.st == 0x05 && t.dt == 0) = true := by decide +kernel

/-- V-T4, V-T6. -/
theorem test_tick :
    (hostTick ((s0.setDT 1).setST 2)).dt = 0 ∧ (hostTick ((s0.setDT 1).setST 2)).st = 1 ∧ (hostTick s0).dt = 0 ∧
    (hostTick { s0.setDT 5 with runState := .paused }).dt = 4 := by decide

/-! ## Unknown opcodes, fetch and lifecycle -/

/-- V-U1. -/
theorem test_unknown_skips :
    after ((s0.setV 1 7).setV 2 7) 0x5121 (fun t =>
      t.pc == 0x202 && t.events == [⟨.unknownOpcode, 0x200, 0x5121⟩] && t.fault == none) = true := by decide +kernel

/-- V-U2. -/
theorem test_unknown_halts :
    after { s0 with policy := .haltAndReport } 0x5121 (fun t =>
      t.pc == 0x200 && t.runState == .halted && t.events == [⟨.unknownOpcode, 0x200, 0x5121⟩] && t.fault == none) = true := by
  decide +kernel

/-- V-C2: the step after a jump to an odd address. -/
theorem test_misaligned_fetch :
    step (s0.setPC 0x203) = .next ((s0.setPC 0x203).takeFault .misalignedFetch 0) := by rfl

/-- V-C4: the step after a jump beyond memory. -/
theorem test_fetch_out_of_range :
    step (s0.setPC 0x10FE) = .next ((s0.setPC 0x10FE).takeFault .fetchOutOfRange 0) := by rfl

/-- R235: a record of each executed instruction, an unknown opcode with no mnemonic; none where the fetch faults. -/
theorem test_trace_record :
    traceRecord (s0.withFetchWord 16 0xD125) = some ⟨0x200, 0xD125, some (.drw 1 2 5)⟩ ∧
    traceRecord (s0.withFetchWord 16 0x5121) = some ⟨0x200, 0x5121, none⟩ ∧
    traceRecord (s0.setPC 0x203) = none := by decide +kernel

/-- R235, R241: no record where there is no step. -/
theorem test_no_trace_outside_running :
    ∀ r ∈ [RunState.uninitialized, .paused, .halted, .faulted],
      traceRecord { s0.withFetchWord 16 0xD125 with runState := r } = none := by decide +kernel

/-- V-L1: the REF font is in memory after Init, and a program byte is not. -/
theorem test_reset_font :
    State.reset.readByte 0x000 = 0xF0 ∧ State.reset.readByte 0x04F = 0x80 ∧ State.reset.readByte 0x050 = 0 := by decide

/-- V-L3: 3233 bytes are one too many. -/
theorem test_rom_too_large : hostInstallRom State.reset (List.replicate 3233 0x00) = .error .romTooLarge := by
  simp only [hostInstallRom, List.length_replicate]
  decide +kernel

/-- V-L6. -/
theorem test_no_step_before_init :
    step (State.beforeInit Config.ref) = .refused (.notRunning .uninitialized) := by rfl

/-! ## Witnesses: for each statement with hypotheses, a state and operands that meet them, one for each clause -/

/-- `s0` with the word `w` at PC. -/
def at0 (w : Nat) : State := s0.withFetchWord 16 w

/-- The invariant's clauses for a running state, each by evaluation. -/
theorem inv_of_running {s : State} (hc : s.cfg.wf = true) (hm : s.mem.wf = true) (hs : s.stackOk)
    (hr : s.runState = .running) (hf : s.fault = none) (h : s.romSize ≤ s.cfg.userEnd - userBase) : s.Inv :=
  ⟨hc, hm, fun _ => hs, by simp [hr, hf], by simp [hf], by simp [hr], h⟩

/-- A state other than reset that meets the invariant: one return address on the stack, a CALL at PC. -/
theorem inv_inside_a_call : ((at0 0x2300).setSP 0xEFE).Inv :=
  inv_of_running (by decide) (by decide) ⟨by decide, by decide, by decide⟩ rfl rfl (by decide)

theorem witness_EncodeInvertsDecode : decode 0x8126 = some (.shr 1 2) := by decide

theorem witness_DecodeAgreesWithOpcodeTable :
    decode 0xF065 = some (.loadRegs 0) ∧ decode 0xF066 = none ∧
    (⟨"CLS", 0x00E0, 0xFFFF⟩ : OpcodeRow) ∈ opcodeTable ∧ 0x00E0#16 &&& 0xFFFF = 0x00E0 := by decide

theorem witness_ZeroGroupHasOnlyClsAndRet :
    (0x0FFF#16).toNat < 0x1000 ∧ 0x0FFF#16 ≠ 0x00E0 ∧ 0x0FFF#16 ≠ 0x00EE := by decide

theorem witness_UnknownWordsByGroup :
    (0x5000#16).toNat / 0x1000 = 5 ∧ (0x9FFF#16).toNat / 0x1000 = 9 ∧ (0x8FFF#16).toNat / 0x1000 = 8 ∧
    (0xE000#16).toNat / 0x1000 = 0xE ∧ (0xFFFF#16).toNat / 0x1000 = 0xF ∧
    (0xDFFF#16).toNat / 0x1000 ∈ [1, 2, 3, 4, 6, 7, 0xA, 0xB, 0xC, 0xD] := by decide

theorem witness_ExtensionEncodingsAreUnknown :
    0x00C0 ≤ (0x00C0#16).toNat ∧ (0x00DF#16).toNat < 0x00E0 ∧ 0xF002#16 ∈ [0x00FB#16, 0xF002] ∧
    0x3A#8 ∈ [0x30#8, 0x3A] := by decide

/-- At 0x200, and at 0xFFE, the last address that a word can be fetched from. -/
theorem witness_StepRunsDecodedInstruction :
    (let s := at0 0xD125
     s.cfg.wf = true ∧ s.runState = .running ∧ s.pc.toNat % 2 = 0 ∧ s.pc.toNat + 1 < 4096 ∧
     decode (s.readByte s.pc.toNat ++ s.readByte (s.pc.toNat + 1)) = some (.drw 1 2 5)) ∧
    (let s := (s0.setPC 0xFFE).withFetchWord 16 0xD125
     s.cfg.wf = true ∧ s.runState = .running ∧ s.pc.toNat % 2 = 0 ∧ s.pc.toNat + 1 < 4096 ∧
     decode (s.readByte s.pc.toNat ++ s.readByte (s.pc.toNat + 1)) = some (.drw 1 2 5)) := by decide

/-- Odd and beyond memory at once; the first even address beyond; the last one inside. -/
theorem witness_FetchChecksTakeTheirFault :
    (let s := s0.setPC 0xFFF
     s.cfg.wf = true ∧ s.runState = .running ∧ s.pc.toNat % 2 = 1) ∧
    (let s := s0.setPC 0x1000
     s.cfg.wf = true ∧ s.runState = .running ∧ s.pc.toNat % 2 = 0 ∧ 4096 ≤ s.pc.toNat + 1) ∧
    (let s := s0.setPC 0xFFE
     s.cfg.wf = true ∧ s.runState = .running ∧ s.pc.toNat % 2 = 0 ∧ s.pc.toNat + 1 < 4096) := by decide

theorem witness_UnknownOpcodeIsReported :
    (let s := at0 0x5121
     s.cfg.wf = true ∧ s.runState = .running ∧ s.pc.toNat % 2 = 0 ∧ s.pc.toNat + 1 < 4096 ∧
     0x5121#16 = s.readByte s.pc.toNat ++ s.readByte (s.pc.toNat + 1) ∧ decode 0x5121 = none ∧
     s.policy = .skipAndReport) ∧
    (let s := (State.afterInit cfg0 .xoChip .haltAndReport 3).withFetchWord 16 0x5121
     s.cfg.wf = true ∧ s.runState = .running ∧ s.pc.toNat % 2 = 0 ∧ s.pc.toNat + 1 < 4096 ∧
     0x5121#16 = s.readByte s.pc.toNat ++ s.readByte (s.pc.toNat + 1) ∧ decode 0x5121 = none ∧
     s.policy = .haltAndReport) := by decide

theorem witness_StepsOnlyInRunning :
    (State.beforeInit cfg0).runState ≠ .running ∧ (State.beforeInit cfg0).cfg.wf = true ∧ s0.runState = .running ∧
    (hostPauseToggle s0).runState = .paused ∧ RunState.halted ∈ [.uninitialized, .halted, .faulted] := by decide

theorem witness_IllFormedConfigurationIsRefused :
    (State.beforeInit { cfg0 with userEnd := 0xEA1 }).cfg.wf = false := by decide

/-- V-D7 and V-D6, and a height of 0 at an address beyond memory (V-D8). -/
theorem witness_DrwTogglesItsSprite :
    (∀ k, k < (15 : Fin 16).val → (s0.setI 0xFF1).i.toNat + k < 4096) ∧
    (∀ k, k < (0 : Fin 16).val → (s0.setI 0xFFFF).i.toNat + k < 4096) ∧
    (∃ k, k < (15 : Fin 16).val ∧ 4096 ≤ (s0.setI 0xFF2).i.toNat + k) := by
  exact ⟨by decide, by decide, 14, by decide⟩

/-- V-D9: a lit cell that the sprite covers, one that it covers and that is unlit, and one that it does not cover. -/
theorem witness_DrwTogglesItsSprite_cells :
    let s := lit (sprite.setV 15 2) 2 0
    s.spriteCovers 15 1 2 2 0 ∧ s.pixel 2 0 = true ∧ s.spriteCovers 15 1 2 3 0 ∧ s.pixel 3 0 = false ∧
    ¬s.spriteCovers 15 1 2 3 1 := by
  unfold State.spriteCovers
  decide +kernel

theorem witness_DrwTwiceRestoresTheFramebuffer :
    ∃ t, exec (.drw 0 1 2) sprite = .next t ∧ (∀ k, k < 2 → sprite.i.toNat + k < 4096) ∧ t.i = sprite.i ∧
      t.readByte 0x300 = sprite.readByte 0x300 ∧ t.readByte 0x301 = sprite.readByte 0x301 ∧
      (t.getV 0).toNat % 64 = (sprite.getV 0).toNat % 64 ∧ (t.getV 1).toNat % 32 = (sprite.getV 1).toNat % 32 := by
  refine ⟨_, rfl, by decide, rfl, rfl, rfl, rfl, rfl⟩

theorem witness_JumpsSetPc :
    s0.cfg.wf = true ∧ s0.runState = .running ∧ (0x203#12).toNat % 2 = 1 ∧
    (zext16 0xFFF + zextByte ((s0.setV 0 0xFF).getV 0)).toNat % 2 = 0 ∧
    0x1000 ≤ (zext16 0xFFF + zextByte ((s0.setV 0 0xFF).getV 0)).toNat ∧
    (zext16 0xFFF + zextByte (s0.getV 0)).toNat % 2 = 1 := by decide

/-- One slot is left; none is left. -/
theorem witness_CallPushesItsAddress :
    s0.mem.wf = true ∧
    ((s0.setSP 0xEA2).cfg.stackLo + 2 ≤ (s0.setSP 0xEA2).sp.toNat ∧ (s0.setSP 0xEA2).sp.toNat ≤ 4096) ∧
    (s0.setSP 0xEA1).sp.toNat < (s0.setSP 0xEA1).cfg.stackLo + 2 := by decide

/-- One address is on the stack; none is; an odd address is popped. -/
theorem witness_RetPopsAndAddsTwo :
    (s0.setSP 0xEFF).cfg.stackTop < (s0.setSP 0xEFF).sp.toNat + 2 ∧
    (let s := (s0.setSP 0xEFE).setMem [(0xEFE, 0x12), (0xEFF, 0x03)]
     s.sp.toNat + 2 ≤ s.cfg.stackTop ∧ s.cfg.stackTop ≤ 4096 ∧ s.cfg.wf = true ∧ s.runState = .running ∧
     ∃ t, exec .ret s = .next t ∧ t.pc.toNat % 2 = 1) := by
  exact ⟨by decide, by decide, by decide, by decide, rfl, _, rfl, by decide⟩

theorem witness_CallThenReturnResumes :
    ∃ t, exec (.call 0x300) s0 = .next t ∧ s0.mem.wf = true ∧ s0.cfg.stackLo + 2 ≤ s0.sp.toNat ∧
      s0.sp.toNat ≤ s0.cfg.stackTop ∧ s0.cfg.stackTop ≤ 4096 ∧ t.cfg = s0.cfg := by
  refine ⟨_, rfl, by decide, by decide, by decide, by decide, rfl⟩

theorem witness_StackOutsideMemoryStops :
    ((s0.setSP 0x1002).cfg.stackLo + 2 ≤ (s0.setSP 0x1002).sp.toNat ∧ 4096 < (s0.setSP 0x1002).sp.toNat) ∧
    (let s := State.setSP { s0 with cfg := { cfg0 with stackTop := 0x1002 } } 0x1000
     s.sp.toNat + 2 ≤ s.cfg.stackTop ∧ 4096 < s.sp.toNat + 2) := by decide

theorem witness_StackOutsideMemoryStops_inv :
    ((at0 0x2300).setSP 0xEFE).Inv ∧ ((at0 0x2300).setSP 0xEFE).runState = .running := ⟨inv_inside_a_call, rfl⟩

theorem witness_RegisterSkips : (0xF#4) ≠ 0 := by decide

theorem witness_KeySkips : (0xA : Fin 16).val = ((s0.setV 2 0x1A).getV 2).toNat % 16 := by decide

/-- No key; key 0, which no key is below; key F alone. -/
theorem witness_WaitForKey :
    (∀ k, s0.key k = false) ∧
    (let s := { s0 with keys := s0.keys.set 0 true }
     s.key 0 = true ∧ ∀ j : Fin 16, j < 0 → s.key j = false) ∧
    (let s := { s0 with keys := s0.keys.set 15 true }
     s.key 15 = true ∧ ∀ j : Fin 16, j < 15 → s.key j = false) := by decide +kernel

theorem witness_RndMasksAFreshDraw : (0x0F#8).getLsbD 7 = false := by decide

theorem witness_LogicAddSub_destination_is_not_vf : (14 : Reg) ≠ VF := by decide

theorem witness_ShiftsSetTheBitShiftedOut :
    s0.cfg.shiftModes.of s0.version = .copyThenShift ∧
    s0InPlace.cfg.shiftModes.of s0InPlace.version = .inPlace := by decide

theorem witness_BcdStoresTheDigits :
    4096 ≤ (s0.setI 0xFFE).i.toNat + 2 ∧ (s0.setI 0xFFD).i.toNat + 2 < 4096 ∧ (s0.setI 0xFFD).mem.wf = true := by decide

theorem witness_RegisterDumpAndLoad :
    4096 ≤ (s0.setI 0xFF1).i.toNat + (15 : Reg).val ∧ (s0.setI 0xFF0).i.toNat + (15 : Reg).val < 4096 ∧
    (s0.setI 0xFF0).mem.wf = true ∧ (0 : Reg) ≤ 15 ∧ (14 : Reg) < 15 := by decide

theorem witness_OutOfRangeExactlyOutsideMemory :
    (∃ (x y : Reg) (h : Fin 16), Instr.drw 1 2 15 = .drw x y h ∧ 15 = h.val) ∧
    (∃ x, Instr.ldB 1 = .ldB x ∧ 3 = 3) ∧ (∃ x : Reg, Instr.storeRegs 15 = .storeRegs x ∧ 16 = x.val + 1) ∧
    (∃ x : Reg, Instr.loadRegs 0 = .loadRegs x ∧ 1 = x.val + 1) :=
  ⟨⟨1, 2, 15, rfl, rfl⟩, ⟨1, rfl, rfl⟩, ⟨15, rfl, rfl⟩, ⟨0, rfl, rfl⟩⟩

/-- Program P7: V0 and V1 into the word after the LD [I],V1. -/
theorem witness_StoreIsSeenByTheNextFetch :
    ∃ t, exec (.storeRegs 1) (s0.setI 0x202) = .next t ∧ (s0.setI 0x202).mem.wf = true ∧
      (s0.setI 0x202).i.toNat + (1 : Reg).val < 4096 ∧ 1 = (0 : Reg).val + 1 ∧
      (s0.setI 0x202).i.toNat + (0 : Reg).val = ((s0.setI 0x202).pc + 2).toNat := by
  refine ⟨_, rfl, by decide, by decide, rfl, by decide⟩

/-- A fault, a wait, a taken skip (SE at equality, SKNP with the last key unpressed) and an untaken one. -/
theorem witness_PcProgress :
    (∃ t, exec (.ldB 0) (s0.setI 0xFFF) = .next t ∧ t.events ≠ (s0.setI 0xFFF).events) ∧
    (∃ t, exec (.ldVxK 0) s0 = .next t ∧ s0.waitsForKey (.ldVxK 0)) ∧
    (∃ t, exec (.seImm 0 0) s0 = .next t ∧ s0.skipTaken (.seImm 0 0)) ∧
    (∃ t, exec (.sknp 1) (s0.setV 1 0xFF) = .next t ∧ (s0.setV 1 0xFF).skipTaken (.sknp 1)) ∧
    (∃ t, exec (.seImm 0 1) s0 = .next t ∧ t.events = s0.events ∧ ¬s0.waitsForKey (.seImm 0 1) ∧
      ¬s0.skipTaken (.seImm 0 1)) := by
  refine ⟨⟨_, rfl, by decide⟩, ⟨_, rfl, ⟨0, rfl⟩, by decide⟩, ⟨_, rfl, .inl ⟨0, 0, rfl, by decide⟩⟩,
    ⟨_, rfl, .inr (.inr (.inr (.inr (.inr ⟨1, 15, rfl, by decide, by decide⟩))))⟩, ⟨_, rfl, rfl, ?_, ?_⟩⟩
  · rintro ⟨⟨x, h⟩, _⟩
    cases h
  · rintro (⟨x, kk, h, hv⟩ | ⟨x, kk, h, _⟩ | ⟨x, y, h, _⟩ | ⟨x, y, h, _⟩ | ⟨x, k, h, _⟩ | ⟨x, k, h, _⟩) <;> cases h
    exact absurd hv (by decide)

/-- A step to Faulted, and an unknown opcode under both policies. -/
theorem witness_PcProgress_step :
    (∃ t, step (s0.setPC 0x203) = .next t ∧ t.runState = .faulted) ∧
    (∃ t, step s0 = .next t ∧ s0.fetchFault = none ∧ decode s0.fetchWord = none ∧ s0.policy = .skipAndReport) ∧
    (let s := { s0 with policy := .haltAndReport }
     ∃ t, step s = .next t ∧ s.fetchFault = none ∧ decode s.fetchWord = none ∧ s.policy = .haltAndReport) :=
  ⟨⟨_, rfl, rfl⟩, ⟨_, rfl, by decide, by decide, rfl⟩, ⟨_, rfl, by decide, by decide, rfl⟩⟩

theorem witness_OnlyNamedRegistersAreWritten :
    ∃ t, exec (.addReg 1 2) s0 = .next t ∧ (14 : Reg) ∉ writtenRegs (.addReg 1 2) := ⟨_, rfl, by decide⟩

/-- For `WhoWritesTheSpecialRegisters`: I, SP, DT and ST do change. -/
theorem witness_WhoWritesTheSpecialRegisters :
    (∃ t, exec (.ldI 1) s0 = .next t ∧ t.i ≠ s0.i) ∧ (∃ t, exec (.call 0) s0 = .next t ∧ t.sp ≠ s0.sp) ∧
    (∃ t, exec (.ldDTVx 1) (s0.setV 1 1) = .next t ∧ t.dt ≠ (s0.setV 1 1).dt) ∧
    (∃ t, exec (.ldSTVx 1) (s0.setV 1 1) = .next t ∧ t.st ≠ (s0.setV 1 1).st) :=
  ⟨⟨_, rfl, by decide⟩, ⟨_, rfl, by decide⟩, ⟨_, rfl, by decide⟩, ⟨_, rfl, by decide⟩⟩

/-- For `WhoWritesMemoryAndFramebuffer`: the framebuffer and a byte of memory do change. -/
theorem witness_WhoWritesMemoryAndFramebuffer :
    (∃ t, exec .cls (lit s0 0 0) = .next t ∧ t.display ≠ (lit s0 0 0).display) ∧
    (∃ t, exec (.call 0) s0 = .next t ∧ t.readByte (s0.sp.toNat - 2) ≠ s0.readByte (s0.sp.toNat - 2)) :=
  ⟨⟨_, rfl, fun h => absurd (congrArg (Framebuffer.get · 0 0) h) (by decide +kernel)⟩, ⟨_, rfl, by decide⟩⟩

/-- For `StepKeepsTheHostsState`, `EventsAreAppendOnly` and `FaultsArePrecise`: a step to Faulted, by a fetch and by an
instruction. -/
theorem witness_StepToFaulted :
    (∃ t, step (s0.setPC 0x203) = .next t ∧ t.runState = .faulted) ∧
    (∃ t, step ((at0 0xF133).setI 0xFFE) = .next t ∧ t.runState = .faulted) := ⟨⟨_, rfl, rfl⟩, ⟨_, rfl, rfl⟩⟩

theorem witness_FaultKindOfEachInstruction :
    ∃ t, exec .ret s0 = .next t ∧ s0.runState = .running ∧ t.runState ≠ .running := ⟨_, rfl, rfl, by decide⟩

theorem witness_OnlyInitLeavesFaultedAndHalted :
    ((s0.takeFault .outOfRange 0).runState = .faulted) ∧ ({ s0 with runState := .halted }.runState = .halted) ∧
    (∃ t, applyHost (.setKey 3 true) (s0.takeFault .outOfRange 0) = .ok t) ∧
    (∀ v p, HostAction.setKey 3 true ≠ .init v p) ∧ s0.cfg.wf = true :=
  ⟨rfl, rfl, ⟨_, rfl⟩, nofun, by decide⟩

/-- For `VersionMattersOnlyToShifts` and `KeysMatterOnlyToKeyInstructions`: a next state and, with the stack pointer outside
memory, the model's stop. -/
theorem witness_NoninterferencePremises :
    (∀ x y, Instr.call 0 ≠ .shr x y) ∧ (∀ x y, Instr.call 0 ≠ .shl x y) ∧ (∀ x, Instr.call 0 ≠ .skp x) ∧
    (∀ x, Instr.call 0 ≠ .sknp x) ∧ (∀ x, Instr.call 0 ≠ .ldVxK x) ∧ (∃ t, exec (.call 0) s0 = .next t) ∧
    (∃ f, exec (.call 0) (s0.setSP 0x1002) = .fault f) := ⟨nofun, nofun, nofun, nofun, nofun, ⟨_, rfl⟩, ⟨_, rfl⟩⟩

/-- For `NoInstructionReadsTheSoundTimer`: LD ST,Vx, another instruction, and the model's stop. -/
theorem witness_NoInstructionReadsTheSoundTimer :
    (∃ t, exec (.ldSTVx 3) s0 = .next t) ∧ (∃ x, Instr.ldSTVx 3 = .ldSTVx x) ∧
    (∃ t, exec (.ldDTVx 3) s0 = .next t) ∧ (∀ x, Instr.ldDTVx 3 ≠ .ldSTVx x) ∧
    (∃ f, exec (.call 0) (s0.setSP 0x1002) = .fault f) := ⟨⟨_, rfl⟩, ⟨3, rfl⟩, ⟨_, rfl⟩, nofun, ⟨_, rfl⟩⟩

/-- From Faulted too; with a font byte, and with addresses on both sides of the font. -/
theorem witness_InitSetsEveryPart :
    (State.reset.takeFault .outOfRange 0).cfg.wf = true ∧ State.reset.cfg.fontData[79]? = some 0x80 ∧
    0x050 < 4096 ∧ State.reset.cfg.fontBase + State.reset.cfg.fontData.length ≤ 0x050 ∧
    0x04F < ({ cfg0 with fontBase := 0x050 } : Config).fontBase := by decide

theorem witness_SetKeySetsOneKey :
    s0.runState ≠ .uninitialized ∧ (0 : Fin 16) ≠ 15 ∧ (State.beforeInit cfg0).runState = .uninitialized := by decide

/-- A ROM that fills the user area, and one that is a byte too large (V-L2, V-L3). -/
theorem witness_InstallRomCopiesOrRejects :
    s0.cfg.wf = true ∧ s0.mem.wf = true ∧ s0.runState ≠ .uninitialized ∧
    0x200 + (List.replicate 3232 0x6A#8).length ≤ s0.cfg.userEnd ∧
    s0.cfg.userEnd < 0x200 + (List.replicate 3233 0x6A#8).length ∧ [0x6A#8, 0x55][1]? = some 0x55 ∧
    (State.beforeInit cfg0).runState = .uninitialized := by
  simp only [List.length_replicate]
  decide

/-- A step from a state with one address on the stack, by CALL. -/
theorem witness_StepKeepsInvariant :
    ∃ t, ((at0 0x2300).setSP 0xEFE).Inv ∧ step ((at0 0x2300).setSP 0xEFE) = .next t := ⟨_, inv_inside_a_call, rfl⟩

theorem witness_HostActionsKeepInvariant :
    ∃ t, ((at0 0x2300).setSP 0xEFE).Inv ∧ applyHost (.installRom [0x6A, 0x55]) ((at0 0x2300).setSP 0xEFE) = .ok t :=
  ⟨_, inv_inside_a_call, hostInstallRom_eq_ok.2 ⟨by decide, by decide, rfl⟩⟩

/-- For `EveryRunningStepCompletes`: a running state, and a paused one. -/
theorem witness_EveryRunningStepCompletes :
    ((at0 0x2300).setSP 0xEFE).Inv ∧ ((at0 0x2300).setSP 0xEFE).runState = .running ∧
    (hostPauseToggle s0).runState ≠ .running := ⟨inv_inside_a_call, rfl, by decide⟩

/-- Before any Init, after one, and after a step from there. -/
theorem witness_ReachableStatesAreSafe :
    cfg0.wf = true ∧ Reachable cfg0 (State.beforeInit cfg0) ∧ Reachable cfg0 s0 ∧
    ∃ t, Reachable cfg0 t ∧ t.events ≠ [] :=
  have h0 : Reachable cfg0 s0 := .next .start (.host (.init .chip8 .skipAndReport) rfl)
  ⟨by decide, .start, h0, ⟨_, .next h0 (.step rfl), by decide⟩⟩

end Sys2Proof.Tests
end

section
/-! SUPPORT. What an instruction that answers a next state has done, said once for every instruction: it has taken the one
fault it can raise, or it has completed (60_exceptions.md R222, R224, R226). -/

namespace Sys2Proof.Machine

/-- The fault that an access to `n` bytes from I takes, if any (44_memory_index.md R180). -/
def State.rangeFault (s : State) (n : Nat) : Option FaultKind :=
  if outOfRange s.i.toNat n then some .outOfRange else none

/-- The fault that an instruction takes in a state, if any (60_exceptions.md R226). -/
def State.raisedFault (s : State) : Instr → Option FaultKind
  | .call _ => if s.sp.toNat < s.cfg.stackLo + 2 then some .stackOverflow else none
  | .ret => if s.cfg.stackTop < s.sp.toNat + 2 then some .stackUnderflow else none
  | .drw _ _ n => s.rangeFault n.val
  | .ldB _ => s.rangeFault 3
  | .storeRegs x => s.rangeFault (x.val + 1)
  | .loadRegs x => s.rangeFault (x.val + 1)
  | _ => none

/-- The state that LD Vx, K leaves: the key taken, or nothing changed while none is pressed (43_keypad.md R172). -/
def State.takeKey (s : State) (x : Reg) : State :=
  match s.firstKey with
  | some k => (s.setV x (BitVec.ofNat 8 k.val)).advance
  | none => s

/-- The state that an instruction leaves where it completes without a fault (60_exceptions.md R222). -/
def State.completed (s : State) : Instr → State
  | .cls => (s.setDisplay Framebuffer.clear).advance
  | .ret => (s.setSP (s.sp + 2)).setPC (s.mem.readWord s.sp.toNat + 2)
  | .jp nnn => s.setPC (zext16 nnn)
  | .call nnn => ((s.setMem (s.mem.writeWord (s.sp.toNat - 2) s.pc)).setSP (s.sp - 2)).setPC (zext16 nnn)
  | .seImm x kk => s.skipIf (s.getV x == kk)
  | .sneImm x kk => s.skipIf (s.getV x != kk)
  | .seReg x y => s.skipIf (s.getV x == s.getV y)
  | .ldImm x kk => (s.setV x kk).advance
  | .addImm x kk => (s.setV x (s.getV x + kk)).advance
  | .ldReg x y => (s.setV x (s.getV y)).advance
  | .orReg x y => s.writeResultAndFlag x (s.getV x ||| s.getV y) logicFlag
  | .andReg x y => s.writeResultAndFlag x (s.getV x &&& s.getV y) logicFlag
  | .xorReg x y => s.writeResultAndFlag x (s.getV x ^^^ s.getV y) logicFlag
  | .addReg x y => s.writeResultAndFlag x (s.getV x + s.getV y) (carryFlag (s.getV x) (s.getV y))
  | .subReg x y => s.writeResultAndFlag x (s.getV x - s.getV y) (noBorrowFlag (s.getV x) (s.getV y))
  | .shr x y => s.writeResultAndFlag x (s.shiftSource x y >>> 1) (shiftedOutRight (s.shiftSource x y))
  | .subn x y => s.writeResultAndFlag x (s.getV y - s.getV x) (noBorrowFlag (s.getV y) (s.getV x))
  | .shl x y => s.writeResultAndFlag x (s.shiftSource x y <<< 1) (shiftedOutLeft (s.shiftSource x y))
  | .sneReg x y => s.skipIf (s.getV x != s.getV y)
  | .ldI nnn => (s.setI (zext16 nnn)).advance
  | .jpV0 nnn => s.setPC (s.offsetTarget nnn)
  | .rnd x kk => ((s.setV x (s.drawnByte &&& kk)).nextDraw).advance
  | .drw x y n =>
    ((s.setDisplay (s.drawSprite x y n.val).1).setV VF (collisionFlag (s.drawSprite x y n.val).2)).advance
  | .skp x => s.skipIf (s.namedKeyPressed x)
  | .sknp x => s.skipIf (!s.namedKeyPressed x)
  | .ldVxDT x => (s.setV x s.dt).advance
  | .ldVxK x => s.takeKey x
  | .ldDTVx x => (s.setDT (s.getV x)).advance
  | .ldSTVx x => (s.setST (s.getV x)).advance
  | .addI x => (s.setI (s.i + zextByte (s.getV x))).advance
  | .ldF x => (s.setI (s.glyphAddress x)).advance
  | .ldB x => (s.setMem (s.mem.writeBytes s.i.toNat (bcdDigits (s.getV x)))).advance
  | .storeRegs x =>
    ((s.setMem (s.mem.writeBytes s.i.toNat (s.regsUpTo x))).setI (s.i + BitVec.ofNat 16 (x.val + 1))).advance
  | .loadRegs x => ((s.loadRegsFrom s.i.toNat x).setI (s.i + BitVec.ofNat 16 (x.val + 1))).advance

theorem execLdVxK_eq (s : State) (x : Reg) : execLdVxK x s = .next (s.takeKey x) := by
  unfold execLdVxK State.takeKey
  cases s.firstKey <;> rfl

theorem State.checkRange_next {s t e : State} {n : Nat} {w : Word} (h : s.checkRange n w e = .next t) :
    (∃ k, s.rangeFault n = some k ∧ t = s.takeFault k w) ∨ (s.rangeFault n = none ∧ t = e) := by
  obtain ⟨ho, he⟩ | ⟨ho, he⟩ := s.checkRange_cases n w e <;> cases h.symm.trans he
  · exact .inl ⟨.outOfRange, if_pos ho, rfl⟩
  · exact .inr ⟨if_neg (by simp [ho]), rfl⟩

/-- An instruction that answers a next state has taken the fault it raises there, or raises none and has completed. -/
theorem exec_next_cases {i : Instr} {s t : State} (h : exec i s = .next t) :
    (∃ k, s.raisedFault i = some k ∧ t = s.takeFault k (encode i)) ∨
    (s.raisedFault i = none ∧ t = s.completed i) := by
  cases i with
  | ret =>
    obtain ⟨hs, e⟩ | ⟨-, -, e⟩ | ⟨hs, -, e⟩ := s.popReturn_cases (encode .ret) <;> cases h.symm.trans e
    · exact .inl ⟨.stackUnderflow, if_pos hs, rfl⟩
    · exact .inr ⟨if_neg (by omega), rfl⟩
  | call nnn =>
    obtain ⟨hs, e⟩ | ⟨-, -, e⟩ | ⟨hs, -, e⟩ := s.pushReturn_cases (zext16 nnn) (encode (.call nnn)) <;>
      cases h.symm.trans e
    · exact .inl ⟨.stackOverflow, if_pos hs, rfl⟩
    · exact .inr ⟨if_neg (by omega), rfl⟩
  | drw | ldB | storeRegs | loadRegs => exact State.checkRange_next h
  | ldVxK x => exact .inr ⟨rfl, Host.Outcome.next.inj (h.symm.trans (execLdVxK_eq s x))⟩
  | _ => exact .inr ⟨rfl, (Host.Outcome.next.inj h).symm⟩

/-! ### What LD Vx, K leaves alone -/

@[simp] theorem State.takeKey_i (s : State) (x : Reg) : (s.takeKey x).i = s.i := by
  unfold State.takeKey; split <;> rfl
@[simp] theorem State.takeKey_sp (s : State) (x : Reg) : (s.takeKey x).sp = s.sp := by
  unfold State.takeKey; split <;> rfl
@[simp] theorem State.takeKey_dt (s : State) (x : Reg) : (s.takeKey x).dt = s.dt := by
  unfold State.takeKey; split <;> rfl
@[simp] theorem State.takeKey_st (s : State) (x : Reg) : (s.takeKey x).st = s.st := by
  unfold State.takeKey; split <;> rfl
@[simp] theorem State.takeKey_display (s : State) (x : Reg) : (s.takeKey x).display = s.display := by
  unfold State.takeKey; split <;> rfl
@[simp] theorem State.takeKey_readByte (s : State) (x : Reg) (a : Nat) : (s.takeKey x).readByte a = s.readByte a := by
  unfold State.takeKey; split <;> rfl

theorem State.takeKey_getV_ne (s : State) (x r : Reg) (h : r ≠ x) : (s.takeKey x).getV r = s.getV r := by
  unfold State.takeKey
  split
  · exact State.setV_getV_ne s x _ r h
  · rfl

/-! ### Which part of the state each completed instruction writes -/

/-- An instruction that completes keeps every V register that is not in its list (10_state.md R20, R22). -/
theorem State.completed_getV (s : State) (i : Instr) {r : Reg} (hr : r ∉ writtenRegs i) :
    (s.completed i).getV r = s.getV r := by
  cases i with
  | ldImm x | addImm x | ldReg x | rnd x | ldVxDT x =>
    have hx : r ≠ x := by simpa [writtenRegs] using hr
    exact State.setV_getV_ne s x _ r hx
  | orReg x | andReg x | xorReg x | addReg x | subReg x | shr x | subn x | shl x =>
    obtain ⟨hx, hf⟩ : r ≠ x ∧ r ≠ VF := by simpa [writtenRegs] using hr
    simp only [State.completed, State.writeResultAndFlag_getV, if_neg hx, if_neg hf]
  | drw x y n =>
    have hf : r ≠ VF := by simpa [writtenRegs] using hr
    exact State.setV_getV_ne (s.setDisplay _) VF _ r hf
  | ldVxK x => exact s.takeKey_getV_ne x r (by simpa [writtenRegs] using hr)
  | loadRegs x =>
    have hx : ¬r ≤ x := by simpa [writtenRegs] using hr
    exact (s.loadRegsFrom_getV _ x r).trans (if_neg hx)
  | _ => simp [State.completed]

/-- I is written by LD I, ADD I, LD F, LD [I] and LD Vx, [I] alone (10_state.md R24). -/
theorem State.completed_i_ne {s : State} {i : Instr} (h : (s.completed i).i ≠ s.i) :
    (∃ nnn, i = .ldI nnn) ∨ (∃ x, i = .addI x) ∨ (∃ x, i = .ldF x) ∨ (∃ x, i = .storeRegs x) ∨
      (∃ x, i = .loadRegs x) := by
  cases i with
  | ldI nnn | addI x | ldF x | storeRegs x | loadRegs x => simp
  | _ => simp [State.completed] at h

/-- SP is written by CALL, 2 down, and RET, 2 up, alone (10_state.md R28). -/
theorem State.completed_sp_ne {s : State} {i : Instr} (h : (s.completed i).sp ≠ s.sp) :
    ((∃ nnn, i = .call nnn) ∧ (s.completed i).sp = s.sp - 2) ∨ (i = .ret ∧ (s.completed i).sp = s.sp + 2) := by
  cases i with
  | call nnn => exact .inl ⟨⟨nnn, rfl⟩, rfl⟩
  | ret => exact .inr ⟨rfl, rfl⟩
  | _ => simp [State.completed] at h

/-- DT is written by LD DT, Vx alone (10_state.md R30). -/
theorem State.completed_dt_ne {s : State} {i : Instr} (h : (s.completed i).dt ≠ s.dt) :
    ∃ x, i = .ldDTVx x ∧ (s.completed i).dt = s.getV x := by
  cases i with
  | ldDTVx x => exact ⟨x, rfl, rfl⟩
  | _ => simp [State.completed] at h

/-- ST is written by LD ST, Vx alone (10_state.md R30). -/
theorem State.completed_st_ne {s : State} {i : Instr} (h : (s.completed i).st ≠ s.st) :
    ∃ x, i = .ldSTVx x ∧ (s.completed i).st = s.getV x := by
  cases i with
  | ldSTVx x => exact ⟨x, rfl, rfl⟩
  | _ => simp [State.completed] at h

/-- The framebuffer is written by CLS and DRW alone (10_state.md R31). -/
theorem State.completed_display_ne {s : State} {i : Instr} (h : (s.completed i).display ≠ s.display) :
    i = .cls ∨ ∃ x y n, i = .drw x y n := by
  cases i with
  | cls | drw x y n => simp
  | _ => simp [State.completed] at h

/-- A byte that a write of bytes changes is one of those written. -/
theorem Memory.mem_range_of_read_writeBytes_ne {m : Memory} {a c : Nat} {bs : List Byte}
    (h : (m.writeBytes a bs).read c ≠ m.read c) : a ≤ c ∧ c < a + bs.length := by
  by_contra hc
  exact h (m.read_writeBytes_out a bs (by omega))

/-- Memory is written by CALL, LD B and LD [I], Vx alone, and at these addresses (20_memory.md R52, R61). That CALL raises
no fault puts the two bytes below SP at addresses that are not below 0. -/
theorem State.completed_readByte_ne {s : State} {i : Instr} {a : Nat} (hf : s.raisedFault i = none)
    (h : (s.completed i).readByte a ≠ s.readByte a) :
    ((∃ nnn, i = .call nnn) ∧ (a = s.sp.toNat - 2 ∨ a = s.sp.toNat - 1)) ∨
    ((∃ x, i = .ldB x) ∧ s.i.toNat ≤ a ∧ a < s.i.toNat + 3) ∨
    (∃ x : Reg, i = .storeRegs x ∧ s.i.toNat ≤ a ∧ a ≤ s.i.toNat + x.val) := by
  cases i with
  | call nnn =>
    have hroom : ¬s.sp.toNat < s.cfg.stackLo + 2 := fun hlt => by simp [State.raisedFault, hlt] at hf
    obtain ⟨hlo, hhi⟩ := Memory.mem_range_of_read_writeBytes_ne (bs := [highByte s.pc, lowByte s.pc]) h
    simp only [List.length_cons, List.length_nil] at hhi
    exact .inl ⟨⟨nnn, rfl⟩, by omega⟩
  | ldB x =>
    have hin := Memory.mem_range_of_read_writeBytes_ne (bs := bcdDigits (s.getV x)) h
    exact .inr (.inl ⟨⟨x, rfl⟩, hin⟩)
  | storeRegs x =>
    obtain ⟨hlo, hhi⟩ := Memory.mem_range_of_read_writeBytes_ne (bs := s.regsUpTo x) h
    rw [State.regsUpTo_length] at hhi
    exact .inr (.inr ⟨x, rfl, hlo, by omega⟩)
  | _ => simp [State.completed] at h

/-! ### The statements about what an instruction writes -/

/-- Settles O38: a fault keeps every V register, and a completed instruction all but its own. -/
theorem onlyNamedRegistersAreWritten : Obligations.OnlyNamedRegistersAreWritten := by
  intro i s t h r hr
  obtain ⟨k, -, rfl⟩ | ⟨-, rfl⟩ := exec_next_cases h
  · exact s.takeFault_getV k _ r
  · exact s.completed_getV i hr

/-- Settles O39: a fault keeps the four registers, and each is written by few of the instructions that complete. -/
theorem whoWritesTheSpecialRegisters : Obligations.WhoWritesTheSpecialRegisters := by
  intro i s t h
  obtain ⟨k, -, rfl⟩ | ⟨-, rfl⟩ := exec_next_cases h
  · simp
  · exact ⟨State.completed_i_ne, State.completed_sp_ne, State.completed_dt_ne, State.completed_st_ne⟩

/-- Settles O40: a fault keeps the framebuffer and memory, and each is written by few of the instructions that complete. -/
theorem whoWritesMemoryAndFramebuffer : Obligations.WhoWritesMemoryAndFramebuffer := by
  intro i s t h
  obtain ⟨k, -, rfl⟩ | ⟨hf, rfl⟩ := exec_next_cases h
  · simp
  · exact ⟨State.completed_display_ne, fun _ => State.completed_readByte_ne hf⟩

end Sys2Proof.Machine
end

section
/-! SUPPORT. What a step leaves of the host's state, and the events it adds (10_state.md R32 to R38). -/

namespace Sys2Proof.Machine

/-- Settles O41: neither a fault, nor a report, nor an instruction that completes writes the host's state. -/
theorem stepKeepsTheHostsState : Obligations.StepKeepsTheHostsState := by
  intro s t h
  obtain ⟨k, -, rfl⟩ | ⟨-, -, rfl⟩ | ⟨i, -, -, he⟩ := step_next_cases h
  · simp
  · obtain ⟨-, ht⟩ | ⟨-, ht⟩ := s.takeUnknown_cases s.fetchWord <;> simp [ht]
  · obtain ⟨k, e⟩ | e | ⟨t', e, hkeep⟩ := exec_cases i s <;> cases he.symm.trans e
    · simp
    · obtain ⟨hkeys, hversion, hpolicy, -, -, -, hrom, hcfg⟩ := hkeep
      exact ⟨hkeys, hversion, hpolicy, hrom, hcfg⟩

/-- Settles O44: a step is a fetch fault, an unknown opcode reported, or an instruction, which faults or adds no event. -/
theorem eventsAreAppendOnly : Obligations.EventsAreAppendOnly := by
  intro s t h
  obtain ⟨-, hrun, -⟩ := step_next_enabled h
  obtain ⟨k, -, rfl⟩ | ⟨-, hd, rfl⟩ | ⟨i, hfetch, hd, he⟩ := step_next_cases h
  · exact .inr (.inl ⟨k, 0, rfl, rfl⟩)
  · refine .inr (.inr ?_)
    obtain ⟨-, ht⟩ | ⟨-, ht⟩ := s.takeUnknown_cases s.fetchWord <;> simp [ht, hd, hrun]
  · obtain ⟨k, e⟩ | e | ⟨t', e, hkeep⟩ := exec_cases i s <;> cases he.symm.trans e
    · exact .inr (.inl ⟨k, encode i, rfl, rfl⟩)
    · obtain ⟨-, -, -, hrunState, -, hevents, -, -⟩ := hkeep
      exact .inl ⟨hevents, hrunState.trans hrun, hfetch, i, hd⟩

end Sys2Proof.Machine
end

section
/-! SUPPORT. An instruction on two states that differ in a part it does not read (10_state.md R33): the outcome on the changed
state is the outcome on the first one, changed in the same part. -/

namespace Sys2Proof.Machine

/-- A change of the state, made to the next state of an outcome; a stop is left as it is. -/
def Result.mapNext (f : State → State) : Result → Result
  | .next t => .next (f t)
  | .fault r => .fault r
  | .refused r => .refused r

@[simp] theorem Result.mapNext_next (f : State → State) (t : State) : Result.mapNext f (.next t) = .next (f t) := rfl
@[simp] theorem Result.mapNext_fault (f : State → State) (r : Fault) : Result.mapNext f (.fault r) = .fault r := rfl

/-- A change that keeps I, and that the fault and the effect carry along, passes through the range check. -/
theorem State.checkRange_mapNext (f : State → State) (s : State) {n : Nat} {w : Word} {e e' : State}
    (hi : (f s).i = s.i) (hf : (f s).takeFault .outOfRange w = f (s.takeFault .outOfRange w)) (he : e' = f e) :
    (f s).checkRange n w e' = Result.mapNext f (s.checkRange n w e) := by
  unfold State.checkRange
  rw [hi, hf, he]
  split <;> rfl

/-- Another VERSION and another SHIFT_MODE, nothing else changed (10_state.md R33; 42_alu.md R160). -/
def State.withVersion (v : Version) (m : ShiftModes) (s : State) : State :=
  { s with version := v, cfg := { s.cfg with shiftModes := m } }

theorem State.skipIf_withVersion (s : State) (v : Version) (m : ShiftModes) (c : Bool) :
    (s.withVersion v m).skipIf c = (s.skipIf c).withVersion v m := by
  cases c <;> rfl

theorem State.takeKey_withVersion (s : State) (v : Version) (m : ShiftModes) (x : Reg) :
    (s.withVersion v m).takeKey x = (s.takeKey x).withVersion v m := by
  have hkey : (s.withVersion v m).firstKey = s.firstKey := rfl
  unfold State.takeKey
  rw [hkey]
  cases s.firstKey <;> rfl

/-- CALL's push and RET's pop read the stack bounds of the configuration, not its SHIFT_MODE. -/
theorem State.pushReturn_withVersion (s : State) (v : Version) (m : ShiftModes) (target w : Word) :
    (s.withVersion v m).pushReturn target w = Result.mapNext (State.withVersion v m) (s.pushReturn target w) := by
  have hsp : (s.withVersion v m).sp = s.sp := rfl
  have hlo : (s.withVersion v m).cfg.stackLo = s.cfg.stackLo := rfl
  unfold State.pushReturn
  rw [hsp, hlo]
  split
  · rfl
  · split <;> rfl

theorem State.popReturn_withVersion (s : State) (v : Version) (m : ShiftModes) (w : Word) :
    (s.withVersion v m).popReturn w = Result.mapNext (State.withVersion v m) (s.popReturn w) := by
  have hsp : (s.withVersion v m).sp = s.sp := rfl
  have htop : (s.withVersion v m).cfg.stackTop = s.cfg.stackTop := rfl
  unfold State.popReturn
  rw [hsp, htop]
  split
  · rfl
  · split <;> rfl

/-- Every instruction but SHR and SHL, under another VERSION and SHIFT_MODE, does what it did before. -/
theorem exec_withVersion (i : Instr) (s : State) (v : Version) (m : ShiftModes) (hr : ∀ x y, i ≠ .shr x y)
    (hl : ∀ x y, i ≠ .shl x y) :
    exec i (s.withVersion v m) = Result.mapNext (State.withVersion v m) (exec i s) := by
  cases i with
  | shr x y => exact absurd rfl (hr x y)
  | shl x y => exact absurd rfl (hl x y)
  | ret => exact s.popReturn_withVersion v m _
  | call nnn => exact s.pushReturn_withVersion v m _ _
  | seImm x | sneImm x | seReg x | sneReg x | skp x | sknp x =>
    exact congrArg Host.Outcome.next (s.skipIf_withVersion v m _)
  | ldVxK x =>
    change execLdVxK x _ = Result.mapNext _ (execLdVxK x s)
    rw [execLdVxK_eq, execLdVxK_eq, State.takeKey_withVersion, Result.mapNext_next]
  | drw | ldB | storeRegs | loadRegs => exact State.checkRange_mapNext (State.withVersion v m) s rfl rfl rfl
  | _ => rfl

/-- Settles O46: the instruction's two outcomes differ in VERSION and SHIFT_MODE alone. -/
theorem versionMattersOnlyToShifts : Obligations.VersionMattersOnlyToShifts := by
  intro i s v m hr hl
  have hexec : exec i { s with version := v, cfg := { s.cfg with shiftModes := m } } =
      Result.mapNext (State.withVersion v m) (exec i s) := exec_withVersion i s v m hr hl
  exact ⟨fun t ht => by rw [hexec, ht]; rfl, fun f hf => by rw [hexec, hf]; rfl⟩

end Sys2Proof.Machine
end

section
/-! SUPPORT. The invariant along a step: a fault and a report write the lifecycle alone, and an instruction that completes
writes memory and SP inside their bounds (20_memory.md R52, R56). -/

namespace Sys2Proof.Machine

/-! ### A step that writes the lifecycle -/

/-- FAULT is empty in Running (10_state.md R36). -/
theorem State.Inv.fault_eq_none {s : State} (h : s.Inv) (hrun : s.runState = .running) : s.fault = none := by
  have hiff := h.faultRecord
  rw [hrun] at hiff
  simpa using hiff

/-- Taking a fault in Running records it in FAULT and in EVENTS (60_exceptions.md R224). -/
theorem State.Inv.takeFault {s : State} (h : s.Inv) (hrun : s.runState = .running) (k : FaultKind) (w : Word) :
    (s.takeFault k w).Inv where
  config := h.config
  memory := h.memory
  stack _ := h.stack (by simp [hrun])
  faultRecord := by simp
  faultEvent f hf := by
    cases hf
    exact List.mem_append_right s.events (List.mem_singleton_self _)
  halted hh := by simp at hh
  rom := h.rom

/-- Executing an unknown opcode in Running halts under HaltAndReport alone (30_encoding.md R80). -/
theorem State.Inv.takeUnknown {s : State} (h : s.Inv) (hrun : s.runState = .running) (w : Word) :
    (s.takeUnknown w).Inv := by
  have hfault := h.fault_eq_none hrun
  have hstack : s.stackOk := h.stack (by simp [hrun])
  obtain ⟨-, ht⟩ | ⟨hpolicy, ht⟩ := s.takeUnknown_cases w <;> rw [ht]
  · exact
      { config := h.config, memory := h.memory, stack := fun _ => hstack, faultRecord := h.faultRecord
        faultEvent := by simp [hfault]
        halted := h.halted, rom := h.rom }
  · exact
      { config := h.config, memory := h.memory, stack := fun _ => hstack
        faultRecord := by simp [hfault]
        faultEvent := by simp [hfault]
        halted := fun _ => hpolicy, rom := h.rom }

/-! ### An instruction that completes -/

/-- A change that keeps the control state, and the bounds of memory and SP, keeps the invariant. -/
theorem State.Inv.of_sameControl {s t : State} (h : s.Inv) (hkeep : s.sameControl t) (hmem : t.mem.wf = true)
    (hstack : s.stackOk → t.stackOk) : t.Inv := by
  obtain ⟨-, -, hpolicy, hrun, hfault, hevents, hrom, hcfg⟩ := hkeep
  exact
    { config := hcfg ▸ h.config
      memory := hmem
      stack := fun hinit => hstack (h.stack (hrun ▸ hinit))
      faultRecord := by rw [hrun, hfault]; exact h.faultRecord
      faultEvent := by rw [hfault, hevents]; exact h.faultEvent
      halted := by rw [hrun, hpolicy]; exact h.halted
      rom := by rw [hrom, hcfg]; exact h.rom }

@[simp] theorem State.takeKey_mem (s : State) (x : Reg) : (s.takeKey x).mem = s.mem := by
  unfold State.takeKey; split <;> rfl

theorem State.takeKey_sameControl (s : State) (x : Reg) : s.sameControl (s.takeKey x) := by
  unfold State.takeKey; split <;> simp [State.sameControl]

/-- An instruction that completes keeps the keys, the configuration and the lifecycle (10_state.md R32 to R38). -/
theorem State.completed_sameControl (s : State) (i : Instr) : s.sameControl (s.completed i) := by
  cases i with
  | ldVxK x => exact s.takeKey_sameControl x
  | _ => simp [State.completed, State.sameControl]

/-- No range fault: the bytes accessed from I end inside memory (20_memory.md R58). -/
theorem State.rangeFault_eq_none {s : State} {n : Nat} (h : s.rangeFault n = none) (hn : 0 < n) :
    s.i.toNat + n ≤ memSize := by
  have hout : outOfRange s.i.toNat n = false := by simpa [State.rangeFault] using h
  have hlast := (outOfRange_eq_false _ _).1 hout (n - 1) (by omega)
  omega

/-- No stack fault: CALL finds room below SP, RET an address above it (41_control.md R120, R124). -/
theorem State.raisedFault_call_eq_none (s : State) (nnn : Addr12) :
    s.raisedFault (.call nnn) = none ↔ s.cfg.stackLo + 2 ≤ s.sp.toNat := by
  simp [State.raisedFault]

theorem State.raisedFault_ret_eq_none (s : State) :
    s.raisedFault .ret = none ↔ s.sp.toNat + 2 ≤ s.cfg.stackTop := by
  simp [State.raisedFault]

/-- CALL, LD B and LD [I], Vx, the instructions that write memory, keep it canonical and inside the 4096 bytes
(20_memory.md R52). For CALL this is because SP lies in the stack region (R56). -/
theorem State.completed_mem_wf {s : State} {i : Instr} (hcfg : s.cfg.wf = true) (hmem : s.mem.wf = true)
    (hstack : s.stackOk) (hf : s.raisedFault i = none) : (s.completed i).mem.wf = true := by
  cases i with
  | call nnn =>
    obtain ⟨-, htop, -⟩ := config_wf_bounds hcfg
    obtain ⟨-, hsp, -⟩ := hstack
    have hroom := (s.raisedFault_call_eq_none nnn).1 hf
    exact Memory.wf_writeBytes (bs := [highByte s.pc, lowByte s.pc]) hmem
      (by simp only [List.length_cons, List.length_nil]; omega)
  | ldB x => exact Memory.wf_writeBytes (bs := bcdDigits (s.getV x)) hmem (State.rangeFault_eq_none hf (Nat.succ_pos 2))
  | storeRegs x =>
    exact Memory.wf_writeBytes hmem (by rw [State.regsUpTo_length]; exact State.rangeFault_eq_none hf (Nat.succ_pos x.val))
  | _ => simpa [State.completed] using hmem

/-- CALL and RET, the instructions that write SP, move it to the next slot of the stack region; each faults where there is
none (10_state.md R28; 20_memory.md R56). -/
theorem State.completed_stackOk {s : State} {i : Instr} (hcfg : s.cfg.wf = true) (hf : s.raisedFault i = none)
    (hstack : s.stackOk) : (s.completed i).stackOk := by
  obtain ⟨hlo, hhi, heven⟩ := hstack
  obtain ⟨-, -, -, -, -, -, -, hsame⟩ := s.completed_sameControl i
  unfold State.stackOk
  rw [hsame]
  by_cases hsp : (s.completed i).sp = s.sp
  · rw [hsp]
    exact ⟨hlo, hhi, heven⟩
  · obtain ⟨⟨nnn, rfl⟩, hnew⟩ | ⟨rfl, hnew⟩ := State.completed_sp_ne hsp <;> rw [hnew]
    · have hroom := (s.raisedFault_call_eq_none nnn).1 hf
      have hdown : (s.sp - 2).toNat = s.sp.toNat - 2 := by bv_omega
      omega
    · have hslot := s.raisedFault_ret_eq_none.1 hf
      obtain ⟨-, htop, -⟩ := config_wf_bounds hcfg
      have hbelow : s.sp.toNat + 2 ≤ 4096 := hslot.trans htop
      have hup : (s.sp + 2).toNat = s.sp.toNat + 2 := by bv_omega
      omega

theorem State.Inv.completed {s : State} {i : Instr} (h : s.Inv) (hrun : s.runState = .running)
    (hf : s.raisedFault i = none) : (s.completed i).Inv :=
  have hstack : s.stackOk := h.stack (by simp [hrun])
  h.of_sameControl (s.completed_sameControl i) (State.completed_mem_wf h.config h.memory hstack hf)
    (State.completed_stackOk h.config hf)

/-- Settles O55: a step is a fetch fault, an unknown opcode reported, or an instruction that faults or completes, and each
keeps the invariant. -/
theorem stepKeepsInvariant : Obligations.StepKeepsInvariant := by
  intro s t h ht
  obtain ⟨-, hrun, -⟩ := step_next_enabled ht
  obtain ⟨k, -, rfl⟩ | ⟨-, -, rfl⟩ | ⟨i, -, -, he⟩ := step_next_cases ht
  · exact h.takeFault hrun k 0
  · exact h.takeUnknown hrun s.fetchWord
  · obtain ⟨k, -, rfl⟩ | ⟨hf, rfl⟩ := exec_next_cases he
    · exact h.takeFault hrun k (encode i)
    · exact h.completed hrun hf

end Sys2Proof.Machine
end

section
/-! SUPPORT. The access set of an instruction that reaches memory through I, and the bytes that LD [I], Vx leaves there
(20_memory.md R58, R61, R64). -/

namespace Sys2Proof.Machine

/-- The range check takes its fault exactly where the access set leaves memory: an effect that adds no event is not the
fault. -/
theorem State.checkRange_eq_takeFault_iff (s : State) (n : Nat) (w : Word) {e : State} (he : e.events = s.events) :
    s.checkRange n w e = .next (s.takeFault .outOfRange w) ↔ outOfRange s.i.toNat n = true := by
  constructor
  · intro h
    obtain ⟨hout, -⟩ | ⟨-, heff⟩ := s.checkRange_cases n w e
    · exact hout
    · have hevents := congrArg State.events (Host.Outcome.next.inj (heff.symm.trans h))
      simp [he] at hevents
  · exact State.checkRange_outside w e

/-- Settles O34: each of the four instructions is a range check over its access set, with an effect that adds no event. -/
theorem outOfRangeExactlyOutsideMemory : Obligations.OutOfRangeExactlyOutsideMemory := by
  intro s i n hi
  refine (outOfRange_eq_true s.i.toNat n).symm.trans ?_
  obtain ⟨x, y, h, rfl, rfl⟩ | ⟨x, rfl, rfl⟩ | ⟨x, rfl, rfl⟩ | ⟨x, rfl, rfl⟩ := hi <;>
    exact (s.checkRange_eq_takeFault_iff _ (encode _) (by simp)).symm

/-- A byte that LD [I], Vx stores is read back as the register it came from (44_memory_index.md R186). -/
theorem Memory.read_writeBytes_regsUpTo {m : Memory} (hm : m.wf = true) (s : State) {a : Nat} {x j : Reg}
    (ha : a + x.val < memSize) (hj : j ≤ x) : (m.writeBytes a (s.regsUpTo x)).read (a + j.val) = s.getV j := by
  have hlen := s.regsUpTo_length x
  have hin : j.val < (s.regsUpTo x).length := by rw [hlen]; exact Nat.lt_succ_of_le hj
  rw [Memory.read_writeBytes_in hm a _ (by omega) j.val hin, State.regsUpTo_getElem]

/-- Settles O36: the two bytes fetched are those that two neighbouring registers were stored to. -/
theorem storeIsSeenByTheNextFetch : Obligations.StoreIsSeenByTheNextFetch := by
  intro s t x j j' hj' hmem hend ht hsucc hle hnext
  subst hsucc
  have hin : outOfRange s.i.toNat (x.val + 1) = false := 
    (outOfRange_eq_false _ _).2 fun k hk => (Nat.add_le_add_left (Nat.le_of_lt_succ hk) _).trans_lt hend
  have hstore : t = s.completed (.storeRegs x) :=
    Host.Outcome.next.inj (ht.symm.trans (State.checkRange_inside _ _ hin))
  have hhigh := Memory.read_writeBytes_regsUpTo hmem s hend (show j ≤ x from (Nat.le_succ j.val).trans hle)
  have hlow := Memory.read_writeBytes_regsUpTo hmem s hend (show (⟨j.val + 1, hj'⟩ : Reg) ≤ x from hle)
  rw [hnext] at hhigh
  rw [← Nat.add_assoc, hnext] at hlow
  calc t.fetchWord.toNat
    _ = (Memory.readWord (s.mem.writeBytes s.i.toNat (s.regsUpTo x)) (s.pc + 2).toNat).toNat := by rw [hstore]; rfl
    _ = (s.getV j).toNat * 256 + (s.getV ⟨j.val + 1, hj'⟩).toNat := by
      rw [Memory.readWord, hhigh, hlow, bigEndian_toNat]

end Sys2Proof.Machine
end

section
/-! SUPPORT. An instruction on two states that differ in the keys alone (20_memory.md R53). -/

namespace Sys2Proof.Machine

/-- A change that keeps SP and the stack's lower bound, and that the fault and the push carry along, passes through CALL's
push. -/
theorem State.pushReturn_mapNext (f : State → State) (s : State) (target w : Word) (hsp : (f s).sp = s.sp)
    (hlo : (f s).cfg.stackLo = s.cfg.stackLo)
    (hf : (f s).takeFault .stackOverflow w = f (s.takeFault .stackOverflow w))
    (hpush : (((f s).setMem ((f s).mem.writeWord (s.sp.toNat - 2) (f s).pc)).setSP (s.sp - 2)).setPC target =
      f (((s.setMem (s.mem.writeWord (s.sp.toNat - 2) s.pc)).setSP (s.sp - 2)).setPC target)) :
    (f s).pushReturn target w = Result.mapNext f (s.pushReturn target w) := by
  unfold State.pushReturn
  rw [hsp, hlo, hf, hpush]
  split
  · rfl
  · split <;> rfl

/-- The same for RET's pop and the stack's upper bound. -/
theorem State.popReturn_mapNext (f : State → State) (s : State) (w : Word) (hsp : (f s).sp = s.sp)
    (htop : (f s).cfg.stackTop = s.cfg.stackTop)
    (hf : (f s).takeFault .stackUnderflow w = f (s.takeFault .stackUnderflow w))
    (hpop : ((f s).setSP (s.sp + 2)).setPC ((f s).mem.readWord s.sp.toNat + 2) =
      f ((s.setSP (s.sp + 2)).setPC (s.mem.readWord s.sp.toNat + 2))) :
    (f s).popReturn w = Result.mapNext f (s.popReturn w) := by
  unfold State.popReturn
  rw [hsp, htop, hf, hpop]
  split
  · rfl
  · split <;> rfl

/-- Other keys, nothing else changed (10_state.md R32). -/
def State.withKeys (ks : Vector Bool 16) (s : State) : State := { s with keys := ks }

theorem State.skipIf_withKeys (s : State) (ks : Vector Bool 16) (c : Bool) :
    (s.withKeys ks).skipIf c = (s.skipIf c).withKeys ks := by
  cases c <;> rfl

/-- Every instruction but SKP, SKNP and LD Vx, K, run with other keys, does what it did before. -/
theorem exec_withKeys (i : Instr) (s : State) (ks : Vector Bool 16) (hskp : ∀ x, i ≠ .skp x)
    (hsknp : ∀ x, i ≠ .sknp x) (hwait : ∀ x, i ≠ .ldVxK x) :
    exec i (s.withKeys ks) = Result.mapNext (State.withKeys ks) (exec i s) := by
  cases i with
  | skp x => exact absurd rfl (hskp x)
  | sknp x => exact absurd rfl (hsknp x)
  | ldVxK x => exact absurd rfl (hwait x)
  | ret => exact s.popReturn_mapNext (State.withKeys ks) _ rfl rfl rfl rfl
  | call nnn => exact s.pushReturn_mapNext (State.withKeys ks) _ _ rfl rfl rfl rfl
  | seImm | sneImm | seReg | sneReg => exact congrArg Host.Outcome.next (s.skipIf_withKeys ks _)
  | drw | ldB | storeRegs | loadRegs => exact s.checkRange_mapNext (State.withKeys ks) rfl rfl rfl
  | _ => rfl

/-- Settles O47: the instruction's two outcomes differ in the keys alone. -/
theorem keysMatterOnlyToKeyInstructions : Obligations.KeysMatterOnlyToKeyInstructions := by
  intro i s ks hskp hsknp hwait
  have hexec : exec i { s with keys := ks } = Result.mapNext (State.withKeys ks) (exec i s) :=
    exec_withKeys i s ks hskp hsknp hwait
  exact ⟨fun t ht => by rw [hexec, ht]; rfl, fun f hf => by rw [hexec, hf]; rfl⟩

end Sys2Proof.Machine
end

section
/-! SUPPORT. The decoder and the encoder are inverse to each other: one equation for each group that has a secondary selector
(30_encoding.md R74), then both directions (R72, R75, R77). -/

namespace Sys2Proof

/-! ### The groups of the decoder -/

theorem decode_zero {w : Word} (hop : fieldOp w = 0x0#4) : decode w = decodeZero w := by
  simp [decode, hop]

theorem decode_five {w : Word} (hop : fieldOp w = 0x5#4) :
    decode w = if fieldN w = 0x0#4 then some (.seReg (fieldX w) (fieldY w)) else none := by
  simp [decode, hop]

theorem decode_alu {w : Word} (hop : fieldOp w = 0x8#4) : decode w = decodeAlu w := by
  simp [decode, hop]

theorem decode_nine {w : Word} (hop : fieldOp w = 0x9#4) :
    decode w = if fieldN w = 0x0#4 then some (.sneReg (fieldX w) (fieldY w)) else none := by
  simp [decode, hop]

theorem decode_key {w : Word} (hop : fieldOp w = 0xE#4) : decode w = decodeKey w := by
  simp [decode, hop]

theorem decode_misc {w : Word} (hop : fieldOp w = 0xF#4) : decode w = decodeMisc w := by
  simp [decode, hop]

/-! ### Decoding an encoding -/

/-- Settles O1: in each format the decoder reads back the fields that the layout wrote (30_encoding.md R71, R72). -/
theorem decodeInvertsEncode : Obligations.DecodeInvertsEncode := by
  intro i
  cases i with
  | cls | ret => decide
  | jp | call | ldI | jpV0 => simp [encode, decode, fieldOp_wordNNN, fieldNNN_wordNNN]
  | seImm | sneImm | ldImm | addImm | rnd =>
    simp [encode, decode, fieldOp_wordXKK, fieldX_wordXKK, fieldKK_wordXKK]
  | seReg | sneReg => simp [encode, decode, fieldOp_wordXYN, fieldX_wordXYN, fieldY_wordXYN, fieldN_wordXYN]
  | drw => simp [encode, decode, fieldOp_wordXYN, fieldX_wordXYN, fieldY_wordXYN, fieldHeight_wordXYN]
  | ldReg | orReg | andReg | xorReg | addReg | subReg | shr | subn | shl =>
    rw [encode, decode_alu (fieldOp_wordXYN _ _ _ _)]
    simp [decodeAlu, fieldX_wordXYN, fieldY_wordXYN, fieldN_wordXYN]
  | skp | sknp =>
    rw [encode, decode_key (fieldOp_wordXKK _ _ _)]
    simp [decodeKey, fieldX_wordXKK, fieldKK_wordXKK]
  | ldVxDT | ldVxK | ldDTVx | ldSTVx | addI | ldF | ldB | storeRegs | loadRegs =>
    rw [encode, decode_misc (fieldOp_wordXKK _ _ _)]
    simp [decodeMisc, fieldX_wordXKK, fieldKK_wordXKK]

/-! ### Encoding what was decoded -/

theorem wordNNN_eq {w : Word} {op : BitVec 4} (hop : fieldOp w = op) : wordNNN op (fieldNNN w) = w :=
  hop ▸ wordNNN_fields w

theorem wordXKK_eq {w : Word} {op : BitVec 4} {kk : Byte} (hop : fieldOp w = op) (hkk : fieldKK w = kk) :
    wordXKK op (fieldX w) kk = w :=
  hop ▸ hkk ▸ wordXKK_fields w

theorem wordXYN_eq {w : Word} {op n : BitVec 4} (hop : fieldOp w = op) (hn : fieldN w = n) :
    wordXYN op (fieldX w) (fieldY w) n = w :=
  hop ▸ hn ▸ wordXYN_fields w

theorem encode_of_decodeZero {w : Word} {i : Instr} (h : decodeZero w = some i) : encode i = w := by
  unfold decodeZero at h
  split_ifs at h with hcls hret <;> cases h
  · exact hcls.symm
  · exact hret.symm

theorem encode_of_decodeAlu {w : Word} {i : Instr} (hop : fieldOp w = 0x8#4) (h : decodeAlu w = some i) :
    encode i = w := by
  unfold decodeAlu at h
  split at h <;> cases h <;> exact wordXYN_eq hop ‹_›

theorem encode_of_decodeKey {w : Word} {i : Instr} (hop : fieldOp w = 0xE#4) (h : decodeKey w = some i) :
    encode i = w := by
  unfold decodeKey at h
  split at h <;> cases h <;> exact wordXKK_eq hop ‹_›

theorem encode_of_decodeMisc {w : Word} {i : Instr} (hop : fieldOp w = 0xF#4) (h : decodeMisc w = some i) :
    encode i = w := by
  unfold decodeMisc at h
  split at h <;> cases h <;> exact wordXKK_eq hop ‹_›

/-- Settles O2: in each group the fields that the decoder read, with the selectors it found, make up the whole word. The
cases stand in the order of the high nibble, from 0 in `h_1` to F in `h_16`. -/
theorem encodeInvertsDecode : Obligations.EncodeInvertsDecode := by
  intro w i h
  unfold decode at h
  split at h
  case h_1 => exact encode_of_decodeZero h
  case h_2 | h_3 | h_11 | h_12 => cases h; exact wordNNN_eq ‹_›
  case h_4 | h_5 | h_7 | h_8 | h_13 => cases h; exact wordXKK_eq ‹_› rfl
  case h_6 | h_10 => split_ifs at h with hn; cases h; exact wordXYN_eq ‹_› hn
  case h_9 hop => exact encode_of_decodeAlu hop h
  case h_14 => cases h; exact wordXYN_eq ‹_› rfl
  case h_15 hop => exact encode_of_decodeKey hop h
  case h_16 hop => exact encode_of_decodeMisc hop h
  case h_17 => cases h

theorem decode_eq_some_iff {w : Word} {i : Instr} : decode w = some i ↔ encode i = w :=
  ⟨encodeInvertsDecode w i, fun h => h ▸ decodeInvertsEncode i⟩

end Sys2Proof
end

section
/-! SUPPORT. Which words are unknown opcodes: by group, and by the rows of the opcode table (30_encoding.md R74, R77, R80). -/

namespace Sys2Proof

/-! ### Fields as numbers (30_encoding.md R71) -/

theorem fieldOp_toNat (w : Word) : (fieldOp w).toNat = w.toNat / 0x1000 := by
  rw [fieldOp, BitVec.extractLsb'_toNat, Nat.shiftRight_eq_div_pow]
  omega

theorem fieldN_toNat (w : Word) : (fieldN w).toNat = w.toNat % 16 := by
  rw [fieldN, BitVec.extractLsb'_toNat, Nat.shiftRight_zero]

theorem fieldKK_toNat (w : Word) : (fieldKK w).toNat = w.toNat % 256 := by
  rw [fieldKK, BitVec.extractLsb'_toNat, Nat.shiftRight_zero]

/-! ### Which words of a group decode (30_encoding.md R77) -/

/-- The groups whose primary selector alone names the instruction (30_encoding.md R74). -/
def directGroups : List (BitVec 4) := [0x1, 0x2, 0x3, 0x4, 0x6, 0x7, 0xA, 0xB, 0xC, 0xD]

theorem decode_isSome_of_direct {w : Word} (hop : fieldOp w ∈ directGroups) : (decode w).isSome = true := by
  simp only [directGroups, List.mem_cons, List.not_mem_nil, or_false] at hop
  obtain h | h | h | h | h | h | h | h | h | h := hop <;> simp [decode, h]

theorem decode_isSome_pair {w : Word} (hop : fieldOp w = 0x5#4 ∨ fieldOp w = 0x9#4) :
    (decode w).isSome = true ↔ (fieldN w).toNat = 0 := by
  have hn : fieldN w = 0x0#4 ↔ (fieldN w).toNat = 0 := (BitVec.toNat_inj (y := 0#4)).symm
  obtain hop | hop := hop
  · simp [decode_five hop, ← hn]
  · simp [decode_nine hop, ← hn]

theorem decode_isSome_alu {w : Word} (hop : fieldOp w = 0x8#4) :
    (decode w).isSome = true ↔ (fieldN w).toNat ≤ 7 ∨ (fieldN w).toNat = 0xE := by
  rw [decode_alu hop, decodeAlu]
  split
  case h_10 =>
    simp only [Option.isSome_none, Bool.false_eq_true, false_iff, imp_false] at *
    bv_omega
  all_goals simp [*]

theorem decode_isSome_key {w : Word} (hop : fieldOp w = 0xE#4) :
    (decode w).isSome = true ↔ (fieldKK w).toNat = 0x9E ∨ (fieldKK w).toNat = 0xA1 := by
  rw [decode_key hop, decodeKey]
  split
  case h_3 =>
    simp only [Option.isSome_none, Bool.false_eq_true, false_iff, imp_false] at *
    bv_omega
  all_goals simp [*]

theorem decode_isSome_misc {w : Word} (hop : fieldOp w = 0xF#4) :
    (decode w).isSome = true ↔ (fieldKK w).toNat ∈ [0x07, 0x0A, 0x15, 0x18, 0x1E, 0x29, 0x33, 0x55, 0x65] := by
  rw [decode_misc hop, decodeMisc]
  split
  case h_10 => simp_all [← BitVec.toNat_inj]
  all_goals simp [*]

/-- Settles O5: each clause is what its group's secondary selector admits, read as a number. -/
theorem unknownWordsByGroup : Obligations.UnknownWordsByGroup := by
  intro w
  rw [← fieldOp_toNat, ← fieldN_toNat, ← fieldKK_toNat]
  refine ⟨fun h => decode_isSome_pair ?_, fun h => decode_isSome_alu ?_, fun h => decode_isSome_key ?_,
    fun h => decode_isSome_misc ?_, fun h => decode_isSome_of_direct ?_⟩
  · exact h.imp BitVec.eq_of_toNat_eq BitVec.eq_of_toNat_eq
  · exact BitVec.eq_of_toNat_eq h
  · exact BitVec.eq_of_toNat_eq h
  · exact BitVec.eq_of_toNat_eq h
  · generalize fieldOp w = op at h
    revert op
    decide

/-- Settles O4: below 0x1000 the high nibble is 0, and the 0 group names two words. -/
theorem zeroGroupHasOnlyClsAndRet : Obligations.ZeroGroupHasOnlyClsAndRet := by
  refine ⟨decodeInvertsEncode .cls, decodeInvertsEncode .ret, fun w hw hcls hret => ?_⟩
  have hop : fieldOp w = 0x0#4 := BitVec.eq_of_toNat_eq ((fieldOp_toNat w).trans (Nat.div_eq_of_lt hw))
  exact (decode_zero hop).trans ((if_neg hcls).trans (if_neg hret))

/-! ### The rows of the opcode table (30_encoding.md R75, R77) -/

/-- The bits that select an instruction in each group: the whole word, the low nibble or the low byte beside the high
nibble, or the high nibble alone (30_encoding.md R74). -/
def selectorMask : BitVec 4 → Word
  | 0x0#4 => 0xFFFF
  | 0x5#4 | 0x8#4 | 0x9#4 => 0xF00F
  | 0xE#4 | 0xF#4 => 0xF0FF
  | _ => 0xF000

/-- A word with its operand bits cleared. -/
def selector (w : Word) : Word := w &&& selectorMask (fieldOp w)

theorem extractLsb'_and_of_ones {w m : Word} {start len : Nat} (hm : m.extractLsb' start len = BitVec.allOnes len) :
    (w &&& m).extractLsb' start len = w.extractLsb' start len := by
  rw [BitVec.extractLsb'_and, hm, BitVec.and_allOnes]

theorem fieldOp_selectorMask : ∀ op, fieldOp (selectorMask op) = BitVec.allOnes 4 := by decide

theorem fieldN_selectorMask : ∀ op ∈ [0x5#4, 0x8#4, 0x9#4], fieldN (selectorMask op) = BitVec.allOnes 4 := by decide

theorem fieldKK_selectorMask : ∀ op ∈ [0xE#4, 0xF#4], fieldKK (selectorMask op) = BitVec.allOnes 8 := by decide

theorem fieldOp_selector (w : Word) : fieldOp (selector w) = fieldOp w :=
  extractLsb'_and_of_ones (fieldOp_selectorMask (fieldOp w))

theorem fieldN_selector {w : Word} (hop : fieldOp w ∈ [0x5#4, 0x8#4, 0x9#4]) : fieldN (selector w) = fieldN w :=
  extractLsb'_and_of_ones (fieldN_selectorMask (fieldOp w) hop)

theorem fieldKK_selector {w : Word} (hop : fieldOp w ∈ [0xE#4, 0xF#4]) : fieldKK (selector w) = fieldKK w :=
  extractLsb'_and_of_ones (fieldKK_selectorMask (fieldOp w) hop)

theorem group_cases : ∀ op : BitVec 4, op = 0x0#4 ∨ (op = 0x5#4 ∨ op = 0x9#4) ∨ op = 0x8#4 ∨ op = 0xE#4 ∨ op = 0xF#4 ∨
    op ∈ directGroups := by decide

/-- The operand bits do not decide whether a word decodes. -/
theorem decode_isSome_selector (w : Word) : (decode (selector w)).isSome = true ↔ (decode w).isSome = true := by
  have hop := fieldOp_selector w
  obtain h | h | h | h | h | h := group_cases (fieldOp w)
  · have hw : selector w = w := by simp only [selector, h]; exact BitVec.and_allOnes
    rw [hw]
  · rw [decode_isSome_pair (hop ▸ h), decode_isSome_pair h, fieldN_selector (by obtain h | h := h <;> simp [h])]
  · rw [decode_isSome_alu (hop.trans h), decode_isSome_alu h, fieldN_selector (by simp [h])]
  · rw [decode_isSome_key (hop.trans h), decode_isSome_key h, fieldKK_selector (by simp [h])]
  · rw [decode_isSome_misc (hop.trans h), decode_isSome_misc h, fieldKK_selector (by simp [h])]
  · exact iff_of_true (decode_isSome_of_direct (hop ▸ h)) (decode_isSome_of_direct h)

theorem opcodeTable_mask : ∀ r ∈ opcodeTable, r.mask = selectorMask (fieldOp r.pattern) := by decide

theorem opcodeTable_pattern_decodes : ∀ r ∈ opcodeTable, (decode r.pattern).isSome = true := by decide

theorem opcodeTable_patterns_nodup : (opcodeTable.map OpcodeRow.pattern).Nodup := by decide

/-- A row that matches a word has the mask of the word's own group. -/
theorem selector_eq_pattern {w : Word} {r : OpcodeRow} (hr : r ∈ opcodeTable) (hw : w &&& r.mask = r.pattern) :
    selector w = r.pattern := by
  have hmask := opcodeTable_mask r hr
  have hop : fieldOp w = fieldOp r.pattern := by
    rw [← hw, hmask]
    exact (extractLsb'_and_of_ones (fieldOp_selectorMask _)).symm
  rw [selector, hop, ← hmask, hw]

/-- The row of each instruction, from the lemma about its constructor. -/
theorem opcodeRow_of_instr (i : Instr) : Laws.OpcodeRowOf.Statement i :=
  open Laws.OpcodeRowOf in
  match i with
  | .cls => cls
  | .ret => ret
  | .jp nnn => jp nnn
  | .call nnn => call nnn
  | .seImm x kk => seImm x kk
  | .sneImm x kk => sneImm x kk
  | .seReg x y => seReg x y
  | .ldImm x kk => ldImm x kk
  | .addImm x kk => addImm x kk
  | .ldReg x y => ldReg x y
  | .orReg x y => orReg x y
  | .andReg x y => andReg x y
  | .xorReg x y => xorReg x y
  | .addReg x y => addReg x y
  | .subReg x y => subReg x y
  | .shr x y => shr x y
  | .subn x y => subn x y
  | .shl x y => shl x y
  | .sneReg x y => sneReg x y
  | .ldI nnn => ldI nnn
  | .jpV0 nnn => jpV0 nnn
  | .rnd x kk => rnd x kk
  | .drw x y n => drw x y n
  | .skp x => skp x
  | .sknp x => sknp x
  | .ldVxDT x => ldVxDT x
  | .ldVxK x => ldVxK x
  | .ldDTVx x => ldDTVx x
  | .ldSTVx x => ldSTVx x
  | .addI x => addI x
  | .ldF x => ldF x
  | .ldB x => ldB x
  | .storeRegs x => storeRegs x
  | .loadRegs x => loadRegs x

/-- Settles O3: the row of an instruction matches its one word; a word that a row matches decodes as the row's pattern does,
for the two have the same selector; and no two rows have the same pattern. -/
theorem decodeAgreesWithOpcodeTable : Obligations.DecodeAgreesWithOpcodeTable := by
  refine ⟨fun w i hi => ?_, fun w hnone r hr hw => ?_, fun w r hr r' hr' hw hw' => ?_⟩
  · obtain ⟨r, hr, hname, hmatch⟩ := opcodeRow_of_instr i
    exact ⟨r, hr, encodeInvertsDecode w i hi ▸ hmatch, hname⟩
  · have hsome : (decode w).isSome = true := by
      rw [← decode_isSome_selector, selector_eq_pattern hr hw]
      exact opcodeTable_pattern_decodes r hr
    simp [hnone] at hsome
  · have hpattern : r.pattern = r'.pattern := (selector_eq_pattern hr hw).symm.trans (selector_eq_pattern hr' hw')
    exact List.inj_on_of_nodup_map opcodeTable_patterns_nodup hr hr' hpattern

/-! ### Words outside the map -/

/-- Settles O6: 00Cn and 00Dn lie in the 0 group, F000 and the others are words or low bytes that their group does not
name, and Dxy0 is the encoding of DRW with height 0. -/
theorem extensionEncodingsAreUnknown : Obligations.ExtensionEncodingsAreUnknown := by
  obtain ⟨-, -, hzero⟩ := zeroGroupHasOnlyClsAndRet
  refine ⟨fun w hlo hhi => ?_, ?_, fun x kk hkk => ?_, fun x y => ⟨?_, ?_⟩,
    fun x y => decodeInvertsEncode (.drw x y 0)⟩
  · exact hzero w (by omega) (by rintro rfl; simp at hhi) (by rintro rfl; simp at hhi)
  · simp only [List.forall_mem_cons, List.not_mem_nil, false_implies, implies_true]
    decide
  · rw [← Option.not_isSome_iff_eq_none, decode_isSome_misc (fieldOp_wordXKK _ _ _), fieldKK_wordXKK]
    revert kk
    simp only [List.forall_mem_cons, List.not_mem_nil, false_implies, implies_true]
    decide
  · simp [decode_five (fieldOp_wordXYN _ _ _ _), fieldN_wordXYN]
  · simp [decode_five (fieldOp_wordXYN _ _ _ _), fieldN_wordXYN]

/-- Settles O7: each word is the encoding of the instruction named. -/
theorem sampleWordsDecode : Obligations.SampleWordsDecode := by
  unfold Obligations.SampleWordsDecode
  simp only [decode_eq_some_iff]
  decide

end Sys2Proof
end

section
/-! SUPPORT. The step on an unknown opcode (30_encoding.md R80; 60_exceptions.md R222). -/

namespace Sys2Proof.Machine

/-- Past the enabling checks and the fetch checks, a step executes the word at PC (60_exceptions.md R221, R222). -/
theorem step_eq_executeWord {s : State} (hcfg : s.cfg.wf = true) (hrun : s.runState = .running)
    (heven : s.pc.toNat % 2 = 0) (hin : s.pc.toNat + 1 < memSize) : step s = executeWord s.fetchWord s := by
  rw [step_of_running hcfg hrun, fetchAndExecute, fetchFault_eq_none.2 ⟨heven, hin⟩]

theorem executeWord_of_unknown {w : Word} (s : State) (hw : decode w = none) :
    executeWord w s = .next (s.takeUnknown w) := by
  rw [executeWord, hw]

/-- Settles O10: the step reports the fetched word, and the policy picks one of the report's two cases. -/
theorem unknownOpcodeIsReported : Obligations.UnknownOpcodeIsReported := by
  intro s w hcfg hrun heven hin hw hnone
  subst hw
  have hstep := (step_eq_executeWord hcfg hrun heven hin).trans (executeWord_of_unknown s hnone)
  obtain ⟨hp, ht⟩ | ⟨hp, ht⟩ := s.takeUnknown_cases s.fetchWord <;> rw [ht] at hstep
  · exact ⟨fun _ => hstep, fun h => by simp [hp] at h⟩
  · exact ⟨fun h => by simp [hp] at h, fun _ => hstep⟩

end Sys2Proof.Machine
end

section
/-! SUPPORT. CLS, and DRW as one drawing: the cells that its sprite covers are toggled, VF says whether one was lit, and a
second drawing of the same sprite undoes the first (40_display.md R100 to R105). -/

namespace Sys2Proof.Machine

/-- Settles O13: CLS replaces the framebuffer by the clear one, and writes PC. -/
theorem clsClearsEveryCell : Obligations.ClsClearsEveryCell :=
  ⟨rfl, fun s => ⟨s.completed .cls, rfl, Framebuffer.get_clear, rfl⟩⟩

/-! ### The collision flag as a byte (40_display.md R102) -/

theorem collisionFlag_eq_one {b : Bool} : collisionFlag b = 1 ↔ b = true := by cases b <;> decide

theorem collisionFlag_eq_zero {b : Bool} : collisionFlag b = 0 ↔ b = false := by cases b <;> decide

theorem collisionFlag_eq_one_or_zero (b : Bool) : collisionFlag b = 1 ∨ collisionFlag b = 0 := by cases b <;> decide

/-! ### What a DRW does -/

/-- With all its rows inside memory, the clipped ones too, DRW completes (40_display.md R104). -/
theorem exec_drw_inside {s : State} (x y : Reg) {n : Fin 16} (h : ∀ k, k < n.val → s.i.toNat + k < memSize) :
    exec (.drw x y n) s = .next (s.completed (.drw x y n)) :=
  State.checkRange_inside _ _ ((outOfRange_eq_false _ _).2 h)

theorem exec_drw_outside {s : State} (x y : Reg) {n : Fin 16} (h : ∃ k, k < n.val ∧ memSize ≤ s.i.toNat + k) :
    exec (.drw x y n) s = .next (s.takeFault .outOfRange (encode (.drw x y n))) :=
  State.checkRange_outside _ _ ((outOfRange_eq_true _ _).2 h)

theorem State.drw_pixel_covered {s : State} {x y : Reg} {n : Fin 16} {p q : Nat} (h : s.spriteCovers x y n.val p q) :
    (s.completed (.drw x y n)).pixel p q = !s.pixel p q :=
  (s.drawSprite_spec x y n.val).covered p q h

theorem State.drw_pixel_uncovered {s : State} {x y : Reg} {n : Fin 16} {p q : Nat}
    (h : ¬s.spriteCovers x y n.val p q) : (s.completed (.drw x y n)).pixel p q = s.pixel p q :=
  (s.drawSprite_spec x y n.val).uncovered p q h

theorem State.drw_getV_VF (s : State) (x y : Reg) (n : Fin 16) :
    (s.completed (.drw x y n)).getV VF = collisionFlag (s.drawSprite x y n.val).2 :=
  State.setV_getV_self _ VF _

/-- A collision has occurred exactly if a covered cell was lit (40_display.md R102). -/
theorem State.drawSprite_collision (s : State) (x y : Reg) (n : Nat) :
    (s.drawSprite x y n).2 = true ↔ ∃ p q, s.spriteCovers x y n p q ∧ s.pixel p q = true :=
  (s.drawSprite_spec x y n).flag.trans (or_iff_right Bool.false_ne_true)

theorem State.drw_VF_eq_one (s : State) (x y : Reg) (n : Fin 16) :
    (s.completed (.drw x y n)).getV VF = 1 ↔ ∃ p q, s.spriteCovers x y n.val p q ∧ s.pixel p q = true := by
  rw [s.drw_getV_VF, collisionFlag_eq_one, s.drawSprite_collision]

theorem State.drw_VF_eq_zero (s : State) (x y : Reg) (n : Fin 16) :
    (s.completed (.drw x y n)).getV VF = 0 ↔ ∀ p q, s.spriteCovers x y n.val p q → s.pixel p q = false := by
  rw [s.drw_getV_VF, collisionFlag_eq_zero, ← Bool.not_eq_true, s.drawSprite_collision]
  simp

/-- Settles O14: the range check is over all n rows, and past it the sprite is drawn, VF and PC are written. -/
theorem drwTogglesItsSprite : Obligations.DrwTogglesItsSprite := by
  intro s x y n
  refine ⟨wordXYN_toNat _ x y _, fun hin => ?_, exec_drw_outside x y⟩
  exact ⟨s.completed (.drw x y n), exec_drw_inside x y hin, fun _ _ => State.drw_pixel_covered,
    fun _ _ => State.drw_pixel_uncovered, (s.drw_VF_eq_one x y n).2, (s.drw_VF_eq_zero x y n).2,
    fun _ => s.completed_getV (.drw x y n), rfl⟩

/-! ### The same sprite twice (40_display.md R105) -/

/-- Sprites of one origin and the same bytes cover the same cells: a cell that is covered lies in one of the n rows. -/
theorem State.spriteCovers_congr {s u : State} {x y x' y' : Reg} {n : Nat} (hi : u.i = s.i)
    (hbytes : ∀ k, k < n → u.readByte (s.i.toNat + k) = s.readByte (s.i.toNat + k))
    (hx : (u.getV x').toNat % 64 = (s.getV x).toNat % 64) (hy : (u.getV y').toNat % 32 = (s.getV y).toNat % 32)
    (p q : Nat) : u.spriteCovers x' y' n p q ↔ s.spriteCovers x y n p q := by
  unfold State.spriteCovers
  rw [hi, hx, hy]
  refine and_congr_right fun _ => and_congr_right fun _ => and_congr_right fun _ => and_congr_right fun _ =>
    and_congr_right fun hlo => and_congr_right fun hhi => ?_
  rw [hbytes _ (Nat.sub_lt_left_of_lt_add hlo hhi)]

/-- A DRW lights a cell exactly if its sprite covers the cell and it was unlit. -/
theorem State.drw_lights_iff (s : State) (x y : Reg) (n : Fin 16) (p q : Nat) :
    s.pixel p q = false ∧ (s.completed (.drw x y n)).pixel p q = true ↔
      s.spriteCovers x y n.val p q ∧ s.pixel p q = false := by
  by_cases hc : s.spriteCovers x y n.val p q
  · simp [State.drw_pixel_covered hc, hc]
  · simp [State.drw_pixel_uncovered hc, hc]

/-- The covered cells that are lit after a DRW are those that were unlit before it. -/
theorem State.drw_covered_lit_iff (s : State) (x y : Reg) (n : Fin 16) (p q : Nat) :
    s.spriteCovers x y n.val p q ∧ (s.completed (.drw x y n)).pixel p q = true ↔
      s.spriteCovers x y n.val p q ∧ s.pixel p q = false :=
  and_congr_right fun hc => by simp [State.drw_pixel_covered hc]

theorem State.pixel_congr {s u : State} (h : u.display = s.display) (p q : Nat) : u.pixel p q = s.pixel p q :=
  congrArg (Framebuffer.get · p q) h

/-- Toggling the same cells again gives the framebuffer back. -/
theorem State.drw_drw_display {s u : State} {x y x' y' : Reg} {n : Fin 16}
    (hdisp : u.display = (s.completed (.drw x y n)).display)
    (hcov : ∀ p q, u.spriteCovers x' y' n.val p q ↔ s.spriteCovers x y n.val p q) :
    (u.completed (.drw x' y' n)).display = s.display := by
  refine Framebuffer.eq_of_get fun p q _ _ => ?_
  change (u.completed (.drw x' y' n)).pixel p q = s.pixel p q
  by_cases hc : s.spriteCovers x y n.val p q
  · rw [State.drw_pixel_covered ((hcov p q).2 hc), State.pixel_congr hdisp, State.drw_pixel_covered hc, Bool.not_not]
  · rw [State.drw_pixel_uncovered (mt (hcov p q).1 hc), State.pixel_congr hdisp, State.drw_pixel_uncovered hc]

/-- The second DRW collides exactly where the first one covered an unlit cell. -/
theorem State.drw_drw_VF_eq_one {s u : State} {x y x' y' : Reg} {n : Fin 16}
    (hdisp : u.display = (s.completed (.drw x y n)).display)
    (hcov : ∀ p q, u.spriteCovers x' y' n.val p q ↔ s.spriteCovers x y n.val p q) :
    (u.completed (.drw x' y' n)).getV VF = 1 ↔ ∃ p q, s.spriteCovers x y n.val p q ∧ s.pixel p q = false := by
  simp only [u.drw_VF_eq_one, hcov, State.pixel_congr hdisp, s.drw_covered_lit_iff]

/-- Settles O15: the second sprite covers the cells of the first, so it toggles them back, and it collides where the first
one lit a cell. -/
theorem drwTwiceRestoresTheFramebuffer : Obligations.DrwTwiceRestoresTheFramebuffer := by
  intro s t u x y x' y' n hin ht hdisp hi hbytes hx hy
  obtain rfl : s.completed (.drw x y n) = t := Host.Outcome.next.inj ((exec_drw_inside x y hin).symm.trans ht)
  have hcov := State.spriteCovers_congr hi hbytes hx hy
  have hvf := State.drw_drw_VF_eq_one hdisp hcov
  refine ⟨u.completed (.drw x' y' n), exec_drw_inside x' y' (hi ▸ hin), State.drw_drw_display hdisp hcov, hvf, ?_, ?_⟩
  · simp only [s.drw_lights_iff]
    exact hvf
  · rw [u.drw_getV_VF]
    exact collisionFlag_eq_one_or_zero _

end Sys2Proof.Machine
end

section
/-! SUPPORT. Control transfer: the equation of each instruction on each of its paths, the fetch fault that a bad target runs
into, and how far PC moves (41_control.md R120 to R130). -/

namespace Sys2Proof.Machine

/-! ### The fetch faults (60_exceptions.md R221) -/

theorem step_of_fetchFault {s : State} {k : FaultKind} (hcfg : s.cfg.wf = true) (hrun : s.runState = .running)
    (hk : s.fetchFault = some k) : step s = .next (s.takeFault k 0) := by
  rw [step_of_running hcfg hrun, fetchAndExecute, hk]

theorem fetchFault_of_odd {s : State} (hodd : s.pc.toNat % 2 = 1) : s.fetchFault = some .misalignedFetch := if_pos hodd

theorem fetchFault_of_outside {s : State} (heven : s.pc.toNat % 2 = 0) (hout : memSize ≤ s.pc.toNat) :
    s.fetchFault = some .fetchOutOfRange :=
  (if_neg (by omega)).trans (if_pos (by omega))

/-! ### JP and JP V0 -/

/-- The sum of a 12-bit and an 8-bit number does not reach 2^16. -/
theorem State.offsetTarget_toNat (s : State) (nnn : Addr12) :
    (s.offsetTarget nnn).toNat = nnn.toNat + (s.getV 0).toNat := by
  rw [State.offsetTarget, BitVec.toNat_add, zext16_toNat, zextByte_toNat]
  omega

/-- Settles O16: each jump is one write of PC, and the fetch checks are made on the target that it wrote. -/
theorem jumpsSetPc : Obligations.JumpsSetPc := by
  intro s nnn
  refine ⟨wordNNN_toNat _ _, wordNNN_toNat _ _,
    ⟨s.completed (.jp nnn), rfl, zext16_toNat nnn, rfl, fun hcfg hrun hodd => ?_⟩,
    ⟨s.completed (.jpV0 nnn), rfl, s.offsetTarget_toNat nnn, rfl, fun hcfg hrun => ⟨fun hodd => ?_, fun heven hout => ?_⟩⟩⟩
  · rw [← zext16_toNat] at hodd
    exact step_of_fetchFault hcfg hrun (fetchFault_of_odd hodd)
  · exact step_of_fetchFault hcfg hrun (fetchFault_of_odd hodd)
  · exact step_of_fetchFault hcfg hrun (fetchFault_of_outside heven hout)

/-! ### CALL and RET -/

theorem exec_call_overflow {s : State} (nnn : Addr12) (h : s.sp.toNat < s.cfg.stackLo + 2) :
    exec (.call nnn) s = .next (s.takeFault .stackOverflow (encode (.call nnn))) := if_pos h

theorem exec_call_inside {s : State} (nnn : Addr12) (hroom : s.cfg.stackLo + 2 ≤ s.sp.toNat)
    (hin : s.sp.toNat ≤ memSize) : exec (.call nnn) s = .next (s.completed (.call nnn)) :=
  (if_neg (by omega)).trans (if_neg (by omega))

theorem exec_ret_underflow {s : State} (h : s.cfg.stackTop < s.sp.toNat + 2) :
    exec .ret s = .next (s.takeFault .stackUnderflow 0x00EE) := if_pos h

theorem exec_ret_inside {s : State} (hslot : s.sp.toNat + 2 ≤ s.cfg.stackTop) (hin : s.sp.toNat + 2 ≤ memSize) :
    exec .ret s = .next (s.completed .ret) :=
  (if_neg (by omega)).trans (if_neg (by omega))

theorem sub_two_toNat {w : Word} (h : 2 ≤ w.toNat) : (w - 2).toNat = w.toNat - 2 := by bv_omega

theorem Memory.readWord_toNat (m : Memory) (a : Nat) :
    (m.readWord a).toNat = (m.read a).toNat * 256 + (m.read (a + 1)).toNat := bigEndian_toNat _ _

/-- A word is read back from where CALL pushes, below SP. -/
theorem State.call_readWord {s : State} (nnn : Addr12) (hmem : s.mem.wf = true) (hlo : 2 ≤ s.sp.toNat)
    (hin : s.sp.toNat ≤ memSize) : (s.completed (.call nnn)).mem.readWord (s.sp.toNat - 2) = s.pc :=
  Memory.readWord_writeWord hmem (by omega) s.pc

/-- Settles O17: the word pushed is read back as PC, high byte first, and a write of two bytes keeps the others. -/
theorem callPushesItsAddress : Obligations.CallPushesItsAddress := by
  intro s nnn
  refine ⟨wordNNN_toNat _ _, exec_call_overflow nnn, fun hroom hin hmem => ?_⟩
  have hlo : 2 ≤ s.sp.toNat := (Nat.le_add_left 2 _).trans hroom
  have hpushed := congrArg BitVec.toNat (State.call_readWord nnn hmem hlo hin)
  rw [Memory.readWord_toNat, show s.sp.toNat - 2 + 1 = s.sp.toNat - 1 by omega] at hpushed
  exact ⟨s.completed (.call nnn), exec_call_inside nnn hroom hin, hpushed, sub_two_toNat hlo, zext16_toNat nnn,
    fun a ha => s.mem.read_writeBytes_out _ [highByte s.pc, lowByte s.pc] ha, rfl⟩

/-- Settles O18: RET writes PC and SP alone, and the next fetch checks the PC that it wrote. -/
theorem retPopsAndAddsTwo : Obligations.RetPopsAndAddsTwo := by
  refine ⟨by decide, fun s => ⟨exec_ret_underflow, fun hslot htop => ?_⟩⟩
  refine ⟨s.completed .ret, exec_ret_inside hslot (hslot.trans htop), ?_, ?_, rfl, fun hcfg hrun hodd => ?_⟩
  · change (s.mem.readWord s.sp.toNat + 2).toNat = _
    rw [BitVec.toNat_add, Memory.readWord_toNat]
    rfl
  · change (s.sp + 2).toNat = _
    bv_omega
  · exact step_of_fetchFault hcfg hrun (fetchFault_of_odd hodd)

/-- Settles O19: the RET finds the word that the CALL pushed, and SP goes up by the 2 that it went down. -/
theorem callThenReturnResumes : Obligations.CallThenReturnResumes := by
  intro s t u nnn hmem hroom hsp htop ht hcfg husp hhigh hlow
  have hin : s.sp.toNat ≤ memSize := hsp.trans htop
  have hlo : 2 ≤ s.sp.toNat := (Nat.le_add_left 2 _).trans hroom
  obtain rfl : s.completed (.call nnn) = t := Host.Outcome.next.inj ((exec_call_inside nnn hroom hin).symm.trans ht)
  have hdown : u.sp.toNat = s.sp.toNat - 2 := (congrArg BitVec.toNat husp).trans (sub_two_toNat hlo)
  have hword : u.mem.readWord u.sp.toNat = s.pc := calc
    u.mem.readWord u.sp.toNat
    _ = (s.completed (.call nnn)).mem.readWord u.sp.toNat := by
      rw [husp]
      exact congrArg₂ bigEndian hhigh hlow
    _ = s.pc := by rw [hdown, State.call_readWord nnn hmem hlo hin]
  refine ⟨u.completed .ret, exec_ret_inside (by rw [hcfg]; omega) (by omega), congrArg (· + 2) hword, ?_⟩
  calc u.sp + 2
    _ = s.sp - 2 + 2 := congrArg (· + 2) husp
    _ = s.sp := BitVec.sub_add_cancel s.sp 2

/-! ### The skips -/

/-- A skip writes PC alone, by 4 exactly where the condition that it tests holds (41_control.md R129). -/
theorem State.skipIf_eq_of_iff (s : State) {c : Bool} {p : Prop} [Decidable p] (h : c = true ↔ p) :
    s.skipIf c = { s with pc := if p then s.pc + 4 else s.pc + 2 } := by
  simp only [State.skipIf_eq, State.setPC, h]

/-- Settles O21: each condition is an equality test or its negation; 5xyN and 9xyN are named by a low nibble of 0 alone. -/
theorem registerSkips : Obligations.RegisterSkips := by
  intro s x y kk
  refine ⟨wordXKK_toNat _ x kk, wordXKK_toNat _ x kk, wordXYN_toNat _ x y 0, wordXYN_toNat _ x y 0, fun n hn => ⟨?_, ?_⟩,
    congrArg _ (s.skipIf_eq_of_iff beq_iff_eq), congrArg _ (s.skipIf_eq_of_iff bne_iff_ne),
    congrArg _ (s.skipIf_eq_of_iff beq_iff_eq), congrArg _ (s.skipIf_eq_of_iff bne_iff_ne)⟩
  · rw [decode_five (fieldOp_wordXYN _ _ _ _), fieldN_wordXYN]
    exact if_neg hn
  · rw [decode_nine (fieldOp_wordXYN _ _ _ _), fieldN_wordXYN]
    exact if_neg hn

/-- The condition that a skip tests; an instruction that is no skip has none (41_control.md R125 to R128; 43_keypad.md
R170, R171). -/
def State.skipCondition (s : State) : Instr → Bool
  | .seImm x kk => s.getV x == kk
  | .sneImm x kk => s.getV x != kk
  | .seReg x y => s.getV x == s.getV y
  | .sneReg x y => s.getV x != s.getV y
  | .skp x => s.namedKeyPressed x
  | .sknp x => !s.namedKeyPressed x
  | _ => false

theorem State.namedKeyPressed_eq_iff (s : State) (x : Reg) (b : Bool) :
    s.namedKeyPressed x = b ↔ ∃ k : Fin 16, k.val = (s.getV x).toNat % 16 ∧ s.key k = b :=
  ⟨fun h => ⟨lowNibble (s.getV x), rfl, h⟩, fun ⟨_, hk, h⟩ => (congrArg s.key (Fin.ext hk.symm)).trans h⟩

theorem State.skipTaken_iff (s : State) (i : Instr) : s.skipTaken i ↔ s.skipCondition i = true := by
  cases i with
  | skp x | sknp x => simp [State.skipTaken, State.skipCondition, State.namedKeyPressed_eq_iff]
  | seImm x kk => simp [State.skipTaken, State.skipCondition, eq_comm (a := kk)]
  | _ => simp [State.skipTaken, State.skipCondition]

theorem exec_of_skipTaken {s : State} {i : Instr} (h : s.skipTaken i) : exec i s = .next s.skipNext := by
  rw [State.skipTaken_iff] at h
  cases i with
  | seImm | sneImm | seReg | sneReg | skp | sknp => exact congrArg Host.Outcome.next (if_pos h)
  | _ => exact absurd h Bool.false_ne_true

/-! ### LD Vx, K -/

/-- With no key pressed LD Vx, K changes nothing, PC neither (43_keypad.md R172). -/
theorem exec_of_waitsForKey {s : State} {i : Instr} (h : s.waitsForKey i) : exec i s = .next s := by
  obtain ⟨⟨x, rfl⟩, hkeys⟩ := h
  change execLdVxK x s = .next s
  rw [execLdVxK, s.firstKey_eq_none.2 hkeys]

theorem State.takeKey_pc {s : State} (x : Reg) (h : s.firstKey ≠ none) : (s.takeKey x).pc = s.pc + 2 := by
  unfold State.takeKey
  split
  · rfl
  · contradiction

/-! ### How far PC moves (41_control.md R130) -/

/-- An instruction that completes, does not wait and is no transfer of control moves PC by 4 or by 2. -/
theorem State.completed_pc {s : State} {i : Instr} (hwait : ¬s.waitsForKey i) (hjp : ∀ nnn, i ≠ .jp nnn)
    (hjpV0 : ∀ nnn, i ≠ .jpV0 nnn) (hcall : ∀ nnn, i ≠ .call nnn) (hret : i ≠ .ret) :
    (s.completed i).pc = if s.skipCondition i then s.pc + 4 else s.pc + 2 := by
  cases i with
  | jp nnn => exact absurd rfl (hjp nnn)
  | jpV0 nnn => exact absurd rfl (hjpV0 nnn)
  | call nnn => exact absurd rfl (hcall nnn)
  | ret => exact absurd rfl hret
  | seImm | sneImm | seReg | sneReg | skp | sknp => exact s.skipIf_pc _
  | ldVxK x => exact State.takeKey_pc x fun hnone => hwait ⟨⟨x, rfl⟩, s.firstKey_eq_none.1 hnone⟩
  | _ => rfl

/-- An instruction that completes adds no event, so one that adds an event has faulted, and a fault keeps PC. -/
theorem exec_of_events_ne {i : Instr} {s t : State} (h : exec i s = .next t) (hevents : t.events ≠ s.events) :
    t.pc = s.pc ∧ ∃ k, t = s.takeFault k (encode i) := by
  obtain ⟨k, -, rfl⟩ | ⟨-, rfl⟩ := exec_next_cases h
  · exact ⟨rfl, k, rfl⟩
  · obtain ⟨-, -, -, -, -, hsame, -⟩ := s.completed_sameControl i
    exact absurd hsame hevents

/-- A fault adds an event, so an instruction that adds none has completed. -/
theorem exec_completed_of_events_eq {i : Instr} {s t : State} (h : exec i s = .next t) (hevents : t.events = s.events) :
    t = s.completed i := by
  obtain ⟨k, -, rfl⟩ | ⟨-, ht⟩ := exec_next_cases h
  · simp at hevents
  · exact ht

/-- An instruction that completes keeps RUN_STATE, so in Running only a fault reaches Faulted. -/
theorem exec_pc_of_faulted {i : Instr} {s t : State} (h : exec i s = .next t) (hrun : s.runState = .running)
    (hfaulted : t.runState = .faulted) : t.pc = s.pc := by
  obtain ⟨k, -, rfl⟩ | ⟨-, rfl⟩ := exec_next_cases h
  · rfl
  · obtain ⟨-, -, -, hsame, -⟩ := s.completed_sameControl i
    simp [hsame, hrun] at hfaulted

/-- Settles O37: an instruction faults, waits, skips, or completes and moves PC by 2; of the steps that run none, a fetch
fault keeps PC and an unknown opcode moves it as the policy says. -/
theorem pcProgress : Obligations.PcProgress := by
  constructor
  · intro i s t h
    refine ⟨exec_of_events_ne h, fun hwait => ?_, fun hskip => ?_, fun hevents hwait hskip hjp hjpV0 hcall hret => ?_⟩
    · exact Host.Outcome.next.inj (h.symm.trans (exec_of_waitsForKey hwait))
    · exact congrArg State.pc (Host.Outcome.next.inj (h.symm.trans (exec_of_skipTaken hskip)))
    · rw [exec_completed_of_events_eq h hevents, State.completed_pc hwait hjp hjpV0 hcall hret,
        if_neg (mt (s.skipTaken_iff i).2 hskip)]
  · intro s t h
    obtain ⟨-, hrun, -⟩ := step_next_enabled h
    obtain ⟨k, hk, rfl⟩ | ⟨-, -, rfl⟩ | ⟨i, -, hd, he⟩ := step_next_cases h
    · exact ⟨fun _ => rfl, fun hnone => by simp [hk] at hnone⟩
    · obtain ⟨hp, ht⟩ | ⟨hp, ht⟩ := s.takeUnknown_cases s.fetchWord <;> simp [ht, hp, hrun]
    · exact ⟨exec_pc_of_faulted he hrun, fun _ hnone => by simp [hd] at hnone⟩

end Sys2Proof.Machine
end

section
/-! SUPPORT. Moves, arithmetic, logic and shifts: what the destination and VF hold afterwards, and each result and flag as a
number (42_alu.md R140 to R153; 45_timers.md R200). -/

namespace Sys2Proof.Machine

/-! ### The words of the 8 and F groups as numbers (30_encoding.md R72, R75) -/

theorem aluWord_toNat (x y : Reg) (n : BitVec 4) :
    (wordXYN 0x8#4 x y n).toNat = 0x8000 + n.toNat + 0x100 * x.val + 0x10 * y.val := by
  rw [wordXYN_toNat, show (0x8#4).toNat = 8 from rfl]
  omega

theorem miscWord_toNat (x : Reg) (kk : Byte) : (wordXKK 0xF#4 x kk).toNat = 0xF000 + kk.toNat + 0x100 * x.val := by
  rw [wordXKK_toNat, show (0xF#4).toNat = 15 from rfl]
  omega

/-! ### What a completed instruction leaves in the V registers (10_state.md R21; 42_alu.md R142) -/

theorem State.completed_sameRegsBut (s : State) (i : Instr) : s.sameRegsBut (s.completed i) (writtenRegs i) :=
  fun _ hr => s.completed_getV i hr

theorem State.writeResultAndFlag_getV_VF (s : State) (x : Reg) (r f : Byte) :
    (s.writeResultAndFlag x r f).getV VF = f := by
  rw [State.writeResultAndFlag_getV, if_pos rfl]

theorem State.writeResultAndFlag_getV_dest (s : State) {x : Reg} (r f : Byte) (hx : x ≠ VF) :
    (s.writeResultAndFlag x r f).getV x = r := by
  rw [State.writeResultAndFlag_getV, if_neg hx, if_pos rfl]

/-! ### The flags as numbers (42_alu.md R145) -/

theorem flagByte_toNat (b : Bool) : (flagByte b).toNat = b.toNat := by cases b <;> rfl

theorem flagByte_decide_toNat (p : Prop) [Decidable p] : (flagByte (decide p)).toNat = if p then 1 else 0 := by
  rw [flagByte_toNat, Bool.toNat, Bool.cond_decide]

/-- A sum of two bytes is below 512, so its quotient by 256 is its bit 8. -/
theorem carryFlag_toNat (a b : Byte) : (carryFlag a b).toNat = (a.toNat + b.toNat) / 256 := by
  rw [carryFlag, flagByte_decide_toNat]
  split <;> omega

theorem noBorrowFlag_toNat (a b : Byte) : (noBorrowFlag a b).toNat = if b.toNat ≤ a.toNat then 1 else 0 :=
  flagByte_decide_toNat _

theorem shiftedOutRight_toNat (a : Byte) : (shiftedOutRight a).toNat = a.toNat % 2 := by
  rw [shiftedOutRight, flagByte_toNat, BitVec.getLsbD, Nat.toNat_testBit, Nat.pow_zero, Nat.div_one]

/-- Bit 7 of a byte is its quotient by 128. -/
theorem shiftedOutLeft_toNat (a : Byte) : (shiftedOutLeft a).toNat = a.toNat / 128 := by
  rw [shiftedOutLeft, flagByte_toNat, BitVec.getLsbD, Nat.toNat_testBit]
  omega

/-! ### The results as numbers (42_alu.md R150 to R153) -/

/-- Over the integers the difference of two bytes is reduced mod 256, which is never negative. -/
theorem sub_toNat_int (a b : Byte) : ((a - b).toNat : Int) = (a.toNat - b.toNat : Int) % 256 := by
  rw [BitVec.toNat_sub]
  omega

theorem shiftRight_one_toNat (a : Byte) : (a >>> 1).toNat = a.toNat / 2 := by
  rw [BitVec.toNat_ushiftRight, Nat.shiftRight_eq_div_pow, Nat.pow_one]

theorem shiftLeft_one_toNat (a : Byte) : (a <<< 1).toNat = 2 * a.toNat % 256 := by
  rw [BitVec.toNat_shiftLeft, Nat.shiftLeft_eq, Nat.pow_one, Nat.mul_comm]

/-- SHIFT_MODE has two values, and each names the source of a shift (42_alu.md R152, R153). -/
theorem State.shiftSource_eq {s : State} {x y : Reg} {src : Byte}
    (hcopy : s.cfg.shiftModes.of s.version = .copyThenShift → src = s.getV y)
    (hinPlace : s.cfg.shiftModes.of s.version = .inPlace → src = s.getV x) : s.shiftSource x y = src := by
  unfold State.shiftSource State.shiftMode
  cases hmode : s.cfg.shiftModes.of s.version with
  | copyThenShift => exact (hcopy hmode).symm
  | inPlace => exact (hinPlace hmode).symm

/-! ### The statements about moves, logic, arithmetic and shifts -/

/-- Settles O24: each move is one write to V[x], and PC. -/
theorem movesWriteOneRegister : Obligations.MovesWriteOneRegister := by
  intro s x y kk
  exact ⟨wordXKK_toNat _ x kk, aluWord_toNat x y 0, miscWord_toNat x 0x07, wordXKK_toNat _ x kk,
    ⟨_, rfl, s.setV_getV_self x kk, s.completed_sameRegsBut (.ldImm x kk), rfl⟩,
    ⟨_, rfl, s.setV_getV_self x (s.getV y), s.completed_sameRegsBut (.ldReg x y), rfl⟩,
    ⟨_, rfl, s.setV_getV_self x s.dt, s.completed_sameRegsBut (.ldVxDT x), rfl⟩,
    ⟨_, rfl, congrArg BitVec.toNat (s.setV_getV_self x (s.getV x + kk)), s.completed_sameRegsBut (.addImm x kk), rfl⟩⟩

/-- Settles O26: the destination holds the bitwise result, and the flag written after it is 0. -/
theorem logicClearsVf : Obligations.LogicClearsVf := by
  intro s x y
  refine ⟨aluWord_toNat x y 1, aluWord_toNat x y 2, aluWord_toNat x y 3,
    ⟨_, rfl, s.writeResultAndFlag_getV_VF x _ _, fun hx b => ?_, s.completed_sameRegsBut (.orReg x y), rfl⟩,
    ⟨_, rfl, s.writeResultAndFlag_getV_VF x _ _, fun hx b => ?_, s.completed_sameRegsBut (.andReg x y), rfl⟩,
    ⟨_, rfl, s.writeResultAndFlag_getV_VF x _ _, fun hx b => ?_, s.completed_sameRegsBut (.xorReg x y), rfl⟩⟩
  · rw [s.writeResultAndFlag_getV_dest _ _ hx, BitVec.getLsbD_or]
  · rw [s.writeResultAndFlag_getV_dest _ _ hx, BitVec.getLsbD_and]
  · rw [s.writeResultAndFlag_getV_dest _ _ hx, BitVec.getLsbD_xor]

/-- Settles O27: the sum of the old values and its carry are written, the carry last. -/
theorem addSetsCarry : Obligations.AddSetsCarry := by
  intro s x y
  refine ⟨aluWord_toNat x y 4, _, rfl, ?_, fun hx => ?_, s.completed_sameRegsBut (.addReg x y), rfl⟩
  · rw [s.writeResultAndFlag_getV_VF, carryFlag_toNat]
  · rw [s.writeResultAndFlag_getV_dest _ _ hx, BitVec.toNat_add]

/-- Settles O28: the difference of the old values and its no-borrow flag are written, the flag last; SUBN swaps the two. -/
theorem subtractionsSetNoBorrow : Obligations.SubtractionsSetNoBorrow := by
  intro s x y
  refine ⟨aluWord_toNat x y 5, aluWord_toNat x y 7,
    ⟨_, rfl, ?_, fun hx => ?_, s.completed_sameRegsBut (.subReg x y), rfl⟩,
    ⟨_, rfl, ?_, fun hx => ?_, s.completed_sameRegsBut (.subn x y), rfl⟩⟩
  · rw [s.writeResultAndFlag_getV_VF, noBorrowFlag_toNat]
  · rw [s.writeResultAndFlag_getV_dest _ _ hx, sub_toNat_int]
  · rw [s.writeResultAndFlag_getV_VF, noBorrowFlag_toNat]
  · rw [s.writeResultAndFlag_getV_dest _ _ hx, sub_toNat_int]

/-- Settles O29: the source that SHIFT_MODE selects is shifted by 1, and the bit that it loses is written last. -/
theorem shiftsSetTheBitShiftedOut : Obligations.ShiftsSetTheBitShiftedOut := by
  intro s x y src hcopy hinPlace
  obtain rfl : s.shiftSource x y = src := State.shiftSource_eq hcopy hinPlace
  refine ⟨aluWord_toNat x y 6, aluWord_toNat x y 0xE,
    ⟨_, rfl, ?_, fun hx => ?_, s.completed_sameRegsBut (.shr x y), rfl⟩,
    ⟨_, rfl, ?_, fun hx => ?_, s.completed_sameRegsBut (.shl x y), rfl⟩⟩
  · rw [s.writeResultAndFlag_getV_VF, shiftedOutRight_toNat]
  · rw [s.writeResultAndFlag_getV_dest _ _ hx, shiftRight_one_toNat]
  · rw [s.writeResultAndFlag_getV_VF, shiftedOutLeft_toNat]
  · rw [s.writeResultAndFlag_getV_dest _ _ hx, shiftLeft_one_toNat]

end Sys2Proof.Machine
end

section
/-! SUPPORT. The keypad instructions: the key that a skip tests, and the lowest pressed key that LD Vx, K takes (43_keypad.md
R170 to R172). -/

namespace Sys2Proof.Machine

/-! ### SKP and SKNP -/

/-- The words of the E group as numbers (30_encoding.md R72, R75). -/
theorem keyWord_toNat (x : Reg) (kk : Byte) : (wordXKK 0xE#4 x kk).toNat = 0xE000 + kk.toNat + 0x100 * x.val := by
  rw [wordXKK_toNat, show (0xE#4).toNat = 14 from rfl]
  omega

/-- Settles O22: the key named is that of the low nibble, and each skip tests its bit or the negation of its bit. -/
theorem keySkips : Obligations.KeySkips := by
  intro s x k hk
  obtain rfl : lowNibble (s.getV x) = k := Fin.ext hk.symm
  have hpressed : s.namedKeyPressed x = true ↔ s.key (lowNibble (s.getV x)) = true := Iff.rfl
  have hunpressed : (!s.namedKeyPressed x) = true ↔ s.key (lowNibble (s.getV x)) = false :=
    Iff.of_eq (Bool.not_eq_true' _)
  exact ⟨keyWord_toNat x 0x9E, keyWord_toNat x 0xA1, congrArg _ (s.skipIf_eq_of_iff hpressed),
    congrArg _ (s.skipIf_eq_of_iff hunpressed)⟩

/-! ### LD Vx, K -/

/-- A key's index fits in a byte. -/
theorem keyByte_toNat (k : Fin 16) : (BitVec.ofNat 8 k.val).toNat = k.val :=
  Nat.mod_eq_of_lt (by omega)

/-- LD Vx, K takes the lowest of the pressed keys. -/
theorem State.takeKey_of_lowest {s : State} {k : Fin 16} (x : Reg) (hk : s.key k = true)
    (hlowest : ∀ j, j < k → s.key j = false) : s.takeKey x = (s.setV x (BitVec.ofNat 8 k.val)).advance := by
  rw [State.takeKey, (s.firstKey_eq_some k).2 ⟨hk, hlowest⟩]

/-- Settles O23: with no key pressed the instruction waits; otherwise it is one write of the lowest pressed key to V[x],
and PC. -/
theorem waitForKey : Obligations.WaitForKey := by
  intro s x
  refine ⟨miscWord_toNat x 0x0A, fun hnone => exec_of_waitsForKey ⟨⟨x, rfl⟩, hnone⟩, fun k hk hlowest => ?_⟩
  have htaken : s.takeKey x = (s.setV x (BitVec.ofNat 8 k.val)).advance := State.takeKey_of_lowest x hk hlowest
  refine ⟨s.takeKey x, execLdVxK_eq s x, ?_, s.completed_sameRegsBut (.ldVxK x), ?_⟩
  · rw [htaken, State.advance_getV, s.setV_getV_self, keyByte_toNat]
  · rw [htaken]
    rfl

end Sys2Proof.Machine
end

section
/-! SUPPORT. The index register and the three transfers through it: where their access sets end, what they leave at I and in
memory, and the digits of LD B as numbers (44_memory_index.md R180 to R187). -/

namespace Sys2Proof.Machine

/-! ### The access set of a transfer, named by its last byte (20_memory.md R58) -/

theorem outOfRange_succ_eq_true {base last : Nat} (h : memSize ≤ base + last) : outOfRange base (last + 1) = true :=
  (outOfRange_eq_true _ _).2 ⟨last, last.lt_succ_self, h⟩

theorem outOfRange_succ_eq_false {base last : Nat} (h : base + last < memSize) : outOfRange base (last + 1) = false :=
  (outOfRange_eq_false _ _).2 fun _ hk => (Nat.add_le_add_left (Nat.le_of_lt_succ hk) base).trans_lt h

/-- With the last byte transferred inside memory, I moves on without wrapping (44_memory_index.md R186, R187). -/
theorem index_add_succ_toNat {i : Word} {last : Nat} (h : i.toNat + last < memSize) :
    (i + BitVec.ofNat 16 (last + 1)).toNat = i.toNat + last + 1 := by
  have hend : i.toNat + last < 4096 := h
  rw [BitVec.toNat_add, BitVec.toNat_ofNat]
  omega

/-! ### LD B: the decimal digits (44_memory_index.md R184, R185) -/

/-- The digits of a byte by their place, hundreds first; a byte is below 1000, so the hundreds are one digit. -/
theorem bcdDigits_getElem_toNat (v : Byte) {k : Nat} (hk : k < 3) :
    ((bcdDigits v)[k]'hk).toNat = v.toNat / 10 ^ (2 - k) % 10 := by
  have hv := v.isLt
  interval_cases k <;> exact (BitVec.toNat_ofNat _ 8).trans (by omega)

/-- Each byte that LD B stores is read back as the digit of its place. -/
theorem State.completed_ldB_readByte_toNat {s : State} (hmem : s.mem.wf = true) (x : Reg) (hin : s.i.toNat + 2 < memSize)
    {k : Nat} (hk : k < 3) :
    ((s.completed (.ldB x)).readByte (s.i.toNat + k)).toNat = (s.getV x).toNat / 10 ^ (2 - k) % 10 :=
  (congrArg BitVec.toNat (Memory.read_writeBytes_in hmem s.i.toNat (bcdDigits (s.getV x)) hin k hk)).trans
    (bcdDigits_getElem_toNat _ hk)

/-- Settles O31: the range check decides between the fault and the write; a byte is below 1000, so its three digits make it up. -/
theorem bcdStoresTheDigits : Obligations.BcdStoresTheDigits := by
  intro s x
  refine ⟨miscWord_toNat x 0x33, fun hout => State.checkRange_outside _ _ (outOfRange_succ_eq_true hout),
    fun hin hmem => ⟨s.completed (.ldB x), State.checkRange_inside _ _ (outOfRange_succ_eq_false hin), ?_⟩⟩
  have hdigit := fun k (hk : k < 3) => State.completed_ldB_readByte_toNat hmem x hin hk
  have hundreds : ((s.completed (.ldB x)).readByte s.i.toNat).toNat = (s.getV x).toNat / 100 % 10 := hdigit 0 (by decide)
  have tens : ((s.completed (.ldB x)).readByte (s.i.toNat + 1)).toNat = (s.getV x).toNat / 10 % 10 := hdigit 1 (by decide)
  have units : ((s.completed (.ldB x)).readByte (s.i.toNat + 2)).toNat = (s.getV x).toNat / 1 % 10 := hdigit 2 (by decide)
  have hv := (s.getV x).isLt
  refine ⟨by omega, by omega, by omega, by omega, fun k hk => ?_,
    fun a ha => s.mem.read_writeBytes_out s.i.toNat (bcdDigits (s.getV x)) ha, rfl⟩
  rw [hdigit k hk]
  exact Nat.le_of_lt_succ (Nat.mod_lt _ (by decide))

/-! ### LD [I], Vx and LD Vx, [I] -/

/-- Settles O32: the range check decides between the fault and the write of V0 to Vx. -/
theorem registerDump : Obligations.RegisterDump := by
  intro s x
  refine ⟨miscWord_toNat x 0x55, fun hout => State.checkRange_outside _ _ (outOfRange_succ_eq_true hout),
    fun hin hmem => ⟨s.completed (.storeRegs x), State.checkRange_inside _ _ (outOfRange_succ_eq_false hin),
      fun k hk => Memory.read_writeBytes_regsUpTo hmem s hin hk, index_add_succ_toNat hin, fun a ha => ?_, rfl⟩⟩
  rw [← s.regsUpTo_length x] at ha
  exact s.mem.read_writeBytes_out s.i.toNat (s.regsUpTo x) ha

/-- LD Vx, [I] takes V0 to Vx from memory and keeps the registers above Vx (44_memory_index.md R187). -/
theorem State.completed_loadRegs_getV (s : State) (x r : Reg) :
    (s.completed (.loadRegs x)).getV r = if r ≤ x then s.readByte (s.i.toNat + r.val) else s.getV r := by
  simp only [State.completed, State.advance_getV, State.setI_getV, State.loadRegsFrom_getV]

/-- LD Vx, [I] writes the V registers, I and PC alone (44_memory_index.md R187). -/
theorem State.completed_loadRegs_eq (s : State) (x : Reg) :
    s.completed (.loadRegs x) =
      { s with v := (s.completed (.loadRegs x)).v, i := (s.completed (.loadRegs x)).i, pc := s.pc + 2 } := by
  simp only [State.completed, State.loadRegsFrom, State.setI, State.advance, State.setPC]

/-- Settles O33: the range check decides between the fault and the load, which writes V0 to Vx. -/
theorem registerLoad : Obligations.RegisterLoad := by
  intro s x
  exact ⟨miscWord_toNat x 0x65, fun hout => State.checkRange_outside _ _ (outOfRange_succ_eq_true hout),
    fun hin => ⟨s.completed (.loadRegs x), State.checkRange_inside _ _ (outOfRange_succ_eq_false hin),
      fun k hk => (s.completed_loadRegs_getV x k).trans (if_pos hk),
      fun k hk => (s.completed_loadRegs_getV x k).trans (if_neg hk.not_ge), index_add_succ_toNat hin, s.completed_loadRegs_eq x⟩⟩

/-! ### LD I, ADD I and LD F -/

/-- Settles O30: each is one write of I, and PC; only the sum and the glyph's address are reduced mod 2^16. -/
theorem indexSetters : Obligations.IndexSetters := by
  intro s x nnn
  refine ⟨wordNNN_toNat _ nnn, miscWord_toNat x 0x1E, miscWord_toNat x 0x29,
    ⟨s.completed (.ldI nnn), rfl, zext16_toNat nnn, rfl⟩, ⟨s.completed (.addI x), rfl, ?_, rfl⟩,
    ⟨s.completed (.ldF x), rfl, ?_, rfl⟩⟩
  · exact (BitVec.toNat_add s.i _).trans (by rw [zextByte_toNat])
  · exact (BitVec.toNat_ofNat _ 16).trans (by rw [lowNibble_val])

end Sys2Proof.Machine
end

section
/-! SUPPORT. The timers: an instruction on two states that differ in ST alone, the two timer writes, and the host's tick
(45_timers.md R201 to R204). -/

namespace Sys2Proof.Machine

/-! ### What no instruction reads -/

theorem State.skipIf_setST (s : State) (b : Byte) (c : Bool) : (s.setST b).skipIf c = (s.skipIf c).setST b := by
  cases c <;> rfl

theorem State.takeKey_setST (s : State) (b : Byte) (x : Reg) : (s.setST b).takeKey x = (s.takeKey x).setST b := by
  have hkey : (s.setST b).firstKey = s.firstKey := rfl
  unfold State.takeKey
  rw [hkey]
  cases s.firstKey <;> rfl

/-- Every instruction but LD ST, Vx carries the value of ST along and does what it did before. -/
theorem exec_setST {i : Instr} (hi : ∀ x, i ≠ .ldSTVx x) (s : State) (b : Byte) :
    exec i (s.setST b) = Result.mapNext (·.setST b) (exec i s) := by
  cases i with
  | ldSTVx x => exact absurd rfl (hi x)
  | ret => exact s.popReturn_mapNext (·.setST b) _ rfl rfl rfl rfl
  | call nnn => exact s.pushReturn_mapNext (·.setST b) _ _ rfl rfl rfl rfl
  | seImm | sneImm | seReg | sneReg | skp | sknp => exact congrArg Host.Outcome.next (s.skipIf_setST b _)
  | ldVxK x =>
    change execLdVxK x _ = Result.mapNext _ (execLdVxK x s)
    rw [execLdVxK_eq, execLdVxK_eq, State.takeKey_setST, Result.mapNext_next]
  | drw | ldB | storeRegs | loadRegs => exact s.checkRange_mapNext (·.setST b) rfl rfl rfl
  | _ => rfl

/-- LD ST, Vx overwrites ST, so its outcome is the same whatever ST held. -/
theorem exec_ldSTVx_setST (x : Reg) (s : State) (b : Byte) : exec (.ldSTVx x) (s.setST b) = exec (.ldSTVx x) s := rfl

/-- Settles O59: LD ST, Vx overwrites ST, and every other instruction carries its value along. -/
theorem noInstructionReadsTheSoundTimer : Obligations.NoInstructionReadsTheSoundTimer := by
  intro i s b
  change (∀ t, exec i s = .next t → ∃ u, exec i (s.setST b) = .next u ∧ _) ∧
    ∀ f, exec i s = .fault f → exec i (s.setST b) = .fault f
  by_cases hi : ∃ x, i = .ldSTVx x
  · obtain ⟨x, rfl⟩ := hi
    rw [exec_ldSTVx_setST]
    exact ⟨fun t ht => ⟨t, ht, rfl, fun hne => absurd rfl (hne x), fun _ => rfl⟩, fun f hf => hf⟩
  · rw [exec_setST (not_exists.1 hi)]
    exact ⟨fun t ht => ⟨t.setST b, congrArg _ ht, rfl, fun _ => rfl, fun hst => absurd hst hi⟩,
      fun f hf => congrArg (Result.mapNext _) hf⟩

/-! ### LD DT, Vx and LD ST, Vx -/

/-- Settles O35: each is one write of its timer, and PC. -/
theorem timerWrites : Obligations.TimerWrites :=
  fun _ x => ⟨miscWord_toNat x 0x15, miscWord_toNat x 0x18, rfl, rfl⟩

/-! ### The tick -/

/-- A timer's decrement as a number; the difference of natural numbers is never below 0. -/
theorem countDown_toNat (t : Byte) : (countDown t).toNat = t.toNat - 1 := by
  unfold countDown
  split
  · next hzero => rw [hzero]; rfl
  · next hne => bv_omega

/-- Settles O51: the tick writes each timer's decrement, and reads no other part of the state. -/
theorem tickCountsDown : Obligations.TickCountsDown :=
  fun s => ⟨hostTick s, rfl, countDown_toNat s.dt, countDown_toNat s.st, rfl⟩

end Sys2Proof.Machine
end

section
/-! SUPPORT. Taking a fault: which kinds a fetch and an instruction raise, and that an instruction leaves Running by a fault
alone (60_exceptions.md R221 to R226). -/

namespace Sys2Proof.Machine

/-! ### The fetch (60_exceptions.md R221, R222) -/

theorem fetchFault_kind {s : State} {k : FaultKind} (h : s.fetchFault = some k) :
    k = .misalignedFetch ∨ k = .fetchOutOfRange := by
  unfold State.fetchFault at h
  split_ifs at h <;> cases h
  · exact .inl rfl
  · exact .inr rfl

theorem executeWord_of_decode {w : Word} {i : Instr} (s : State) (hw : decode w = some i) : executeWord w s = exec i s := by
  rw [executeWord, hw]

/-- Settles O8: past the fetch checks the step executes the word at PC, which decodes. -/
theorem stepRunsDecodedInstruction : Obligations.StepRunsDecodedInstruction :=
  fun s _ hcfg hrun heven hin hdecode =>
    (step_eq_executeWord hcfg hrun heven hin).trans (executeWord_of_decode s hdecode)

/-- Settles O9: an odd PC takes the first check's fault, an even one at the end of memory the second's, and any other is
fetched from. -/
theorem fetchChecksTakeTheirFault : Obligations.FetchChecksTakeTheirFault := by
  intro s hcfg hrun
  refine ⟨fun hodd => ?_, fun heven hout => ?_, fun heven hin => ?_⟩
  · exact step_of_fetchFault hcfg hrun (fetchFault_of_odd hodd)
  · have hend : 4096 ≤ s.pc.toNat := by omega
    exact step_of_fetchFault hcfg hrun (fetchFault_of_outside heven hend)
  · exact step_eq_executeWord hcfg hrun heven hin

/-! ### The instruction (60_exceptions.md R226) -/

/-- An access through I raises OutOfRange alone. -/
theorem State.rangeFault_kind {s : State} {n : Nat} {k : FaultKind} (h : s.rangeFault n = some k) : k = .outOfRange := by
  unfold State.rangeFault at h
  split_ifs at h
  cases h
  rfl

/-- The kind that an instruction raises names the instructions that can raise it. -/
theorem State.raisedFault_kind {s : State} {i : Instr} {k : FaultKind} (h : s.raisedFault i = some k) :
    (k = .outOfRange ∧ ((∃ x y n, i = .drw x y n) ∨ (∃ x, i = .ldB x) ∨ (∃ x, i = .storeRegs x) ∨
      (∃ x, i = .loadRegs x))) ∨
    (k = .stackOverflow ∧ ∃ nnn, i = .call nnn) ∨ (k = .stackUnderflow ∧ i = .ret) := by
  cases i with
  | drw | ldB | storeRegs | loadRegs => exact .inl ⟨State.rangeFault_kind h, by simp⟩
  | call nnn =>
    simp only [State.raisedFault] at h
    split_ifs at h
    cases h
    exact .inr (.inl ⟨rfl, nnn, rfl⟩)
  | ret =>
    simp only [State.raisedFault] at h
    split_ifs at h
    cases h
    exact .inr (.inr ⟨rfl, rfl⟩)
  | _ => cases h

/-- An instruction raises neither kind of fetch fault. -/
theorem State.raisedFault_not_fetch {s : State} {i : Instr} {k : FaultKind} (h : s.raisedFault i = some k) :
    ¬(k = .misalignedFetch ∨ k = .fetchOutOfRange) := by
  obtain ⟨rfl, -⟩ | ⟨rfl, -⟩ | ⟨rfl, -⟩ := State.raisedFault_kind h <;> simp

/-- An instruction that completes keeps RUN_STATE, so one that leaves Running has faulted. -/
theorem exec_faulted_of_not_running {i : Instr} {s t : State} (h : exec i s = .next t) (hrun : s.runState = .running)
    (hstop : t.runState ≠ .running) : ∃ k, s.raisedFault i = some k ∧ t = s.takeFault k (encode i) := by
  obtain hfault | ⟨-, rfl⟩ := exec_next_cases h
  · exact hfault
  · obtain ⟨-, -, -, hsame, -⟩ := s.completed_sameControl i
    exact absurd (hsame.trans hrun) hstop

/-- Settles O43: an instruction that leaves Running has taken the fault it raises, of one of the kinds it can raise. -/
theorem faultKindOfEachInstruction : Obligations.FaultKindOfEachInstruction := by
  intro i s t h hrun hstop
  obtain ⟨k, hk, ht⟩ := exec_faulted_of_not_running h hrun hstop
  exact ⟨k, ht, State.raisedFault_kind hk⟩

/-- Settles O42: a step into Faulted is a fetch fault or the fault of an instruction, whose encoding is the fetched word; a
report of an unknown opcode leads elsewhere. -/
theorem faultsArePrecise : Obligations.FaultsArePrecise := by
  intro s t h hfaulted
  obtain ⟨-, hrun, -⟩ := step_next_enabled h
  obtain ⟨k, hk, rfl⟩ | ⟨-, -, rfl⟩ | ⟨i, -, hd, he⟩ := step_next_cases h
  · refine ⟨k, 0, rfl, fun _ => ⟨rfl, fun hin => ?_⟩, fun hinstr => ?_⟩
    · simp [fetchFault_eq_none.2 hin] at hk
    · obtain rfl | rfl := fetchFault_kind hk <;> simp at hinstr
  · obtain ⟨-, ht⟩ | ⟨-, ht⟩ := s.takeUnknown_cases s.fetchWord <;> simp [ht, hrun] at hfaulted
  · obtain ⟨k, hk, rfl⟩ := exec_faulted_of_not_running he hrun (by simp [hfaulted])
    have hword : encode i = s.fetchWord := encodeInvertsDecode _ _ hd
    exact ⟨k, encode i, rfl, fun hfetch => absurd hfetch (State.raisedFault_not_fetch hk), fun _ => hword⟩

end Sys2Proof.Machine
end

section
/-! SUPPORT. The run states and the host's actions: no step outside Running, what each action leaves alone of the lifecycle,
and that each keeps the invariant (60_exceptions.md R225, R240 to R242). -/

namespace Sys2Proof.Machine

/-! ### No step outside Running -/

theorem step_ne_next_of_not_running {s : State} (h : s.runState ≠ .running) (t : State) : step s ≠ .next t :=
  fun ht => h (step_next_enabled ht).2.1

theorem step_of_not_running {s : State} (hcfg : s.cfg.wf = true) (h : s.runState ≠ .running) :
    step s = .refused (.notRunning s.runState) := by
  unfold step cycle
  rw [hcfg]
  cases hr : s.runState with
  | running => exact absurd hr h
  | _ => rfl

/-! ### PauseToggle -/

theorem hostPauseToggle_of_running {s : State} (h : s.runState = .running) :
    hostPauseToggle s = { s with runState := .paused } := by
  rw [hostPauseToggle, h]

theorem hostPauseToggle_of_paused {s : State} (h : s.runState = .paused) :
    hostPauseToggle s = { s with runState := .running } := by
  rw [hostPauseToggle, h]

theorem hostPauseToggle_of_ignored {s : State} (hr : s.runState ≠ .running) (hp : s.runState ≠ .paused) :
    hostPauseToggle s = s := by
  unfold hostPauseToggle
  split
  · contradiction
  · contradiction
  all_goals rfl

/-- PauseToggle moves from Running to Paused, from Paused to Running, or does nothing (60_exceptions.md R241). -/
theorem hostPauseToggle_cases (s : State) :
    (s.runState = .running ∧ hostPauseToggle s = { s with runState := .paused }) ∨
    (s.runState = .paused ∧ hostPauseToggle s = { s with runState := .running }) ∨ hostPauseToggle s = s := by
  by_cases hr : s.runState = .running
  · exact .inl ⟨hr, hostPauseToggle_of_running hr⟩
  · by_cases hp : s.runState = .paused
    · exact .inr (.inl ⟨hp, hostPauseToggle_of_paused hp⟩)
    · exact .inr (.inr (hostPauseToggle_of_ignored hr hp))

/-- Settles O11: a step is enabled in Running alone, and PauseToggle has an equation for each run state. -/
theorem stepsOnlyInRunning : Obligations.StepsOnlyInRunning := by
  refine ⟨fun s => step_ne_next_of_not_running, fun s => step_of_not_running,
    fun s => ⟨fun h => ?_, fun h => ?_, fun h => ?_⟩⟩
  · exact congrArg Except.ok (hostPauseToggle_of_running h)
  · exact congrArg Except.ok (hostPauseToggle_of_paused h)
  · have hrun : s.runState ≠ .running := by rintro hr; simp [hr] at h
    have hpaused : s.runState ≠ .paused := by rintro hp; simp [hp] at h
    exact congrArg Except.ok (hostPauseToggle_of_ignored hrun hpaused)

/-! ### SetKey -/

/-- Reading a key after one was set (10_state.md R32). -/
theorem State.setKey_key (s : State) (k j : Fin 16) (b : Bool) :
    State.key { s with keys := s.keys.set k.val b } j = if j = k then b else s.key j := by
  simp only [State.key, Vector.getElem_set, Fin.ext_iff, eq_comm]

/-- Settles O52: SetKey is one write to the keys; before Init it is not enabled. -/
theorem setKeySetsOneKey : Obligations.SetKeySetsOneKey := by
  intro s k b
  refine ⟨fun hinit => ⟨_, hostSetKey_eq_ok.2 ⟨hinit, rfl⟩, ?_, fun j hj => ?_, rfl⟩, fun hun => if_pos hun⟩
  · exact (s.setKey_key k k b).trans (if_pos rfl)
  · exact (s.setKey_key k j b).trans (if_neg hj)

/-! ### What the host's actions leave alone -/

/-- No action of the host but Init writes PC or FAULT, and only PauseToggle writes RUN_STATE, in Running and Paused alone
(60_exceptions.md R225, R241). The configuration is fixed for the machine (00_scope.md R8). -/
theorem applyHost_keeps {s t : State} {a : HostAction} (h : applyHost a s = .ok t) (ha : ∀ v p, a ≠ .init v p) :
    t.cfg = s.cfg ∧ t.pc = s.pc ∧ t.fault = s.fault ∧
      (s.runState ≠ .running → s.runState ≠ .paused → t.runState = s.runState) := by
  cases a with
  | init v p => exact absurd rfl (ha v p)
  | tick =>
    cases h
    exact ⟨rfl, rfl, rfl, fun _ _ => rfl⟩
  | pauseToggle =>
    cases h
    obtain ⟨hr, ht⟩ | ⟨hp, ht⟩ | ht := hostPauseToggle_cases s <;> rw [ht]
    · exact ⟨rfl, rfl, rfl, fun hne => absurd hr hne⟩
    · exact ⟨rfl, rfl, rfl, fun _ hne => absurd hp hne⟩
    · exact ⟨rfl, rfl, rfl, fun _ _ => rfl⟩
  | setKey k b =>
    obtain ⟨-, rfl⟩ := hostSetKey_eq_ok.1 h
    exact ⟨rfl, rfl, rfl, fun _ _ => rfl⟩
  | installRom bs =>
    obtain ⟨-, -, rfl⟩ := hostInstallRom_eq_ok.1 h
    exact ⟨rfl, rfl, rfl, fun _ _ => rfl⟩

/-- Settles O45: no step is enabled in Faulted and Halted, no action but Init writes PC, FAULT or, there, RUN_STATE, and
Init sets RUN_STATE and FAULT. -/
theorem onlyInitLeavesFaultedAndHalted : Obligations.OnlyInitLeavesFaultedAndHalted := by
  refine ⟨fun s hstopped => ?_, fun s t a h ha => ?_, fun s v p hcfg => ?_⟩
  · have hrun : s.runState ≠ .running := by rintro hr; simp [hr] at hstopped
    have hpaused : s.runState ≠ .paused := by rintro hp; simp [hp] at hstopped
    refine ⟨step_ne_next_of_not_running hrun, fun a t h ha => ?_⟩
    obtain ⟨-, -, -, hkeep⟩ := applyHost_keeps h ha
    exact hkeep hrun hpaused
  · obtain ⟨-, hpc, hfault, -⟩ := applyHost_keeps h ha
    exact ⟨hpc, hfault⟩
  · exact ⟨State.afterInit s.cfg v p s.drawIndex, hostInit_eq_ok.2 ⟨hcfg, rfl⟩, rfl, rfl⟩

/-! ### The invariant -/

/-- Init starts with memory that holds the font alone and with an empty stack (70_reset_and_hazards.md R250). -/
theorem State.Inv.afterInit {c : Config} (hcfg : c.wf = true) (v : Version) (p : UnknownOpcodePolicy) (d : Nat) :
    (State.afterInit c v p d).Inv := by
  obtain ⟨hstack, htop, -, -, -, hfont⟩ := config_wf_bounds hcfg
  have hsp : (State.afterInit c v p d).sp.toNat = c.stackTop := Nat.mod_eq_of_lt (htop.trans_lt (by decide))
  have hempty : (State.afterInit c v p d).stackOk := by
    rw [State.stackOk, hsp]
    exact ⟨hstack, le_rfl, congrArg (· % 2) (Nat.sub_self c.stackTop)⟩
  exact
    { config := hcfg
      memory := Memory.wf_ofBytes c.fontData c.fontBase hfont
      stack := fun _ => hempty
      faultRecord := by simp [State.afterInit]
      faultEvent := nofun
      halted := nofun
      rom := Nat.zero_le _ }

/-- The invariant does not tell Running and Paused apart: neither is Uninitialized, Halted or Faulted. -/
theorem State.Inv.setRunState {s : State} (h : s.Inv) {r : RunState} (hs : s.runState = .running ∨ s.runState = .paused)
    (hr : r = .running ∨ r = .paused) : ({ s with runState := r } : State).Inv where
  config := h.config
  memory := h.memory
  stack _ := h.stack (by obtain hs | hs := hs <;> simp [hs])
  faultRecord := by
    have hiff := h.faultRecord
    obtain hs | hs := hs <;> obtain rfl | rfl := hr <;> simpa [hs] using hiff
  faultEvent := h.faultEvent
  halted hh := by obtain rfl | rfl := hr <;> cases hh
  rom := h.rom

theorem State.Inv.pauseToggle {s : State} (h : s.Inv) : (hostPauseToggle s).Inv := by
  obtain ⟨hr, ht⟩ | ⟨hp, ht⟩ | ht := hostPauseToggle_cases s <;> rw [ht]
  · exact h.setRunState (.inl hr) (.inr rfl)
  · exact h.setRunState (.inr hp) (.inl rfl)
  · exact h

/-- A ROM that fits the user program area ends inside memory (20_memory.md R55; 70_reset_and_hazards.md R253). -/
theorem State.Inv.installRom {s : State} (h : s.Inv) {bs : List Byte} (hfit : bs.length ≤ s.cfg.userEnd - userBase) :
    ({ s with mem := s.mem.writeBytes userBase bs, romSize := bs.length } : State).Inv := by
  obtain ⟨-, -, -, hbase, hend, -⟩ := config_wf_bounds h.config
  have hin : userBase + bs.length ≤ memSize := by omega
  exact { h with memory := Memory.wf_writeBytes h.memory hin, rom := hfit }

/-- Settles O56: Init establishes the invariant, and it does not speak of what Tick and SetKey write. -/
theorem hostActionsKeepInvariant : Obligations.HostActionsKeepInvariant := by
  intro s t a h ht
  cases a with
  | init v p =>
    obtain ⟨hcfg, rfl⟩ := hostInit_eq_ok.1 ht
    exact .afterInit hcfg v p s.drawIndex
  | tick =>
    cases ht
    exact { h with }
  | pauseToggle =>
    cases ht
    exact h.pauseToggle
  | setKey k b =>
    obtain ⟨-, rfl⟩ := hostSetKey_eq_ok.1 ht
    exact { h with }
  | installRom bs =>
    obtain ⟨-, hfit, rfl⟩ := hostInstallRom_eq_ok.1 ht
    exact h.installRom hfit

end Sys2Proof.Machine
end

section
/-! SUPPORT. The run of the block under its host: a running step completes, and what holds of every state that is reached
(60_exceptions.md R222, R240, R241). -/

namespace Sys2Proof.Machine

/-! ### A running step completes -/

/-- With SP in the stack region, which ends inside memory, no instruction stops short. -/
theorem exec_completes {s : State} (hcfg : s.cfg.wf = true) (hstack : s.stackOk) (i : Instr) :
    ∃ t, exec i s = .next t := by
  obtain ⟨-, htop, -⟩ := config_wf_bounds hcfg
  obtain ⟨-, hsp, -⟩ := hstack
  have range : ∀ n w e, ∃ t, s.checkRange n w e = .next t := fun n w e =>
    (s.checkRange_cases n w e).elim (fun hout => ⟨_, hout.2⟩) (fun hin => ⟨_, hin.2⟩)
  cases i with
  | ret =>
    obtain ⟨-, h⟩ | ⟨hslot, hout, -⟩ | ⟨-, -, h⟩ := s.popReturn_cases (encode .ret)
    · exact ⟨_, h⟩
    · exact absurd (hslot.trans htop) hout.not_ge
    · exact ⟨_, h⟩
  | call nnn =>
    obtain ⟨-, h⟩ | ⟨-, hout, -⟩ | ⟨-, -, h⟩ := s.pushReturn_cases (zext16 nnn) (encode (.call nnn))
    · exact ⟨_, h⟩
    · exact absurd (hsp.trans htop) hout.not_ge
    · exact ⟨_, h⟩
  | drw | ldB | storeRegs | loadRegs => exact range _ _ _
  | ldVxK x => exact ⟨_, execLdVxK_eq s x⟩
  | _ => exact ⟨_, rfl⟩

theorem executeWord_completes {s : State} (hcfg : s.cfg.wf = true) (hstack : s.stackOk) (w : Word) :
    ∃ t, executeWord w s = .next t := by
  cases hd : decode w with
  | none => exact ⟨_, executeWord_of_unknown s hd⟩
  | some i =>
    rw [executeWord_of_decode s hd]
    exact exec_completes hcfg hstack i

theorem State.Inv.step_completes {s : State} (h : s.Inv) (hrun : s.runState = .running) : ∃ t, step s = .next t := by
  cases hk : s.fetchFault with
  | some k => exact ⟨_, step_of_fetchFault h.config hrun hk⟩
  | none =>
    obtain ⟨heven, hin⟩ := fetchFault_eq_none.1 hk
    rw [step_eq_executeWord h.config hrun heven hin]
    exact executeWord_completes h.config (h.stack (by simp [hrun])) s.fetchWord

/-- Settles O57: under the invariant a step completes in Running, and a step that completes was taken there. -/
theorem everyRunningStepCompletes : Obligations.EveryRunningStepCompletes := by
  refine fun s h => ⟨h.step_completes, fun ⟨t, ht⟩ => ?_⟩
  obtain ⟨-, hrun, -⟩ := step_next_enabled ht
  exact hrun

/-! ### Every reachable state -/

/-- Before any Init memory lists no byte and no fault is recorded (70_reset_and_hazards.md R252). -/
theorem State.Inv.beforeInit {c : Config} (hcfg : c.wf = true) : (State.beforeInit c).Inv where
  config := hcfg
  memory := rfl
  stack hinit := absurd rfl hinit
  faultRecord := by simp [State.beforeInit]
  faultEvent := nofun
  halted := nofun
  rom := Nat.zero_le _

theorem applyHost_cfg {s t : State} {a : HostAction} (h : applyHost a s = .ok t) : t.cfg = s.cfg := by
  cases a with
  | init v p =>
    obtain ⟨-, rfl⟩ := hostInit_eq_ok.1 h
    rfl
  | _ =>
    obtain ⟨hcfg, -⟩ := applyHost_keeps h nofun
    exact hcfg

theorem Transition.cfg {s t : State} (h : Transition s t) : t.cfg = s.cfg := by
  cases h with
  | step h =>
    obtain ⟨-, -, -, -, hcfg⟩ := stepKeepsTheHostsState s t h
    exact hcfg
  | host a h => exact applyHost_cfg h

theorem Transition.inv {s t : State} (h : Transition s t) (hs : s.Inv) : t.Inv := by
  cases h with
  | step h => exact stepKeepsInvariant s t hs h
  | host a h => exact hostActionsKeepInvariant s t a hs h

theorem Reachable.cfg {c : Config} {s : State} (h : Reachable c s) : s.cfg = c := by
  induction h with
  | start => rfl
  | next _ ht ih => exact ht.cfg.trans ih

theorem Reachable.inv {c : Config} (hcfg : c.wf = true) {s : State} (h : Reachable c s) : s.Inv := by
  induction h with
  | start => exact .beforeInit hcfg
  | next _ ht ih => exact ht.inv ih

/-- Settles O58: the invariant holds before any Init and along every transition, and it decides what a step answers. -/
theorem reachableStatesAreSafe : Obligations.ReachableStatesAreSafe := by
  intro c s hcfg hs
  have h : s.Inv := hs.inv hcfg
  exact ⟨h, hs.cfg, h.step_completes, step_of_not_running h.config⟩

end Sys2Proof.Machine
end

section
/-! SUPPORT. What the two initial states hold, part by part, and what InstallRom answers (70_reset_and_hazards.md R250 to R253;
10_state.md R40). -/

namespace Sys2Proof.Machine

/-! ### The state before any Init (70_reset_and_hazards.md R252) -/

@[simp] theorem State.beforeInit_getV (c : Config) (r : Reg) : (State.beforeInit c).getV r = 0 :=
  Vector.getElem_replicate r.isLt

@[simp] theorem State.beforeInit_readByte (c : Config) (a : Nat) : (State.beforeInit c).readByte a = 0 := rfl

@[simp] theorem State.beforeInit_pixel (c : Config) (x y : Nat) : (State.beforeInit c).pixel x y = false :=
  Framebuffer.get_clear x y

@[simp] theorem State.beforeInit_key (c : Config) (k : Fin 16) : (State.beforeInit c).key k = false :=
  Vector.getElem_replicate k.isLt

theorem State.beforeInit_not_running (c : Config) : (State.beforeInit c).runState ≠ .running := nofun

/-- Settles O49: every part is created zero, and a step is taken in Running alone. -/
theorem beforeInitNothingRuns : Obligations.BeforeInitNothingRuns := fun c =>
  ⟨State.beforeInit_getV c, State.beforeInit_readByte c, State.beforeInit_pixel c, State.beforeInit_key c,
    rfl, rfl, rfl, rfl, rfl, rfl, rfl, rfl, rfl, rfl, rfl, step_ne_next_of_not_running (State.beforeInit_not_running c)⟩

/-! ### The state that Init leaves (70_reset_and_hazards.md R250) -/

section
variable (c : Config) (v : Version) (p : UnknownOpcodePolicy) (d : Nat)

@[simp] theorem State.afterInit_getV (r : Reg) : (State.afterInit c v p d).getV r = 0 := Vector.getElem_replicate r.isLt

@[simp] theorem State.afterInit_pixel (x y : Nat) : (State.afterInit c v p d).pixel x y = false := Framebuffer.get_clear x y

@[simp] theorem State.afterInit_key (k : Fin 16) : (State.afterInit c v p d).key k = false :=
  Vector.getElem_replicate k.isLt

/-- The font table holds the font's bytes in their order (20_memory.md R54). -/
theorem State.afterInit_readByte_font {k : Nat} {b : Byte} (hk : c.fontData[k]? = some b) :
    (State.afterInit c v p d).readByte (c.fontBase + k) = b := by
  obtain ⟨hlt, hb⟩ := List.getElem?_eq_some_iff.1 hk
  exact (Memory.read_ofBytes_in c.fontData c.fontBase k hlt).trans hb

/-- Outside the font table memory is zeroed. -/
theorem State.afterInit_readByte_outside {a : Nat} (ha : a < c.fontBase ∨ c.fontBase + c.fontData.length ≤ a) :
    (State.afterInit c v p d).readByte a = 0 := Memory.read_ofBytes_out c.fontData c.fontBase ha

/-- The stack is empty; a legal STACK_TOP is at most MEM_SIZE, so it fits in SP (00_scope.md R9; 10_state.md R28). -/
theorem State.afterInit_sp_toNat {c : Config} (hcfg : c.wf = true) : (State.afterInit c v p d).sp.toNat = c.stackTop := by
  obtain ⟨-, htop, -⟩ := config_wf_bounds hcfg
  exact Nat.mod_eq_of_lt (htop.trans_lt (by decide))

end

/-- Settles O48: under a legal configuration Init answers its after-Init state, which does not depend on the state before it
but for the configuration and the draw counter. -/
theorem initSetsEveryPart : Obligations.InitSetsEveryPart := by
  intro s v p hcfg
  refine ⟨rfl, State.afterInit s.cfg v p s.drawIndex, hostInit_eq_ok.2 ⟨hcfg, rfl⟩, ?font, ?zero, ?regs, rfl, rfl, rfl, rfl,
    State.afterInit_sp_toNat v p s.drawIndex hcfg, ?pixels, ?keys, rfl, rfl, rfl, rfl, rfl, rfl, rfl⟩
  case font => exact fun k b => State.afterInit_readByte_font s.cfg v p s.drawIndex
  case zero => exact fun a => State.afterInit_readByte_outside s.cfg v p s.drawIndex
  case regs => exact State.afterInit_getV s.cfg v p s.drawIndex
  case pixels => exact State.afterInit_pixel s.cfg v p s.drawIndex
  case keys => exact State.afterInit_key s.cfg v p s.drawIndex

/-! ### InstallRom (70_reset_and_hazards.md R253) -/

theorem hostInstallRom_of_uninitialized {s : State} (h : s.runState = .uninitialized) (bs : List Byte) :
    hostInstallRom s bs = .error .notEnabled := if_pos h

theorem hostInstallRom_of_tooLarge {s : State} {bs : List Byte} (hinit : s.runState ≠ .uninitialized)
    (hlarge : s.cfg.userEnd - userBase < bs.length) : hostInstallRom s bs = .error .romTooLarge :=
  (if_neg hinit).trans (if_pos hlarge)

/-- Settles O53: the capacity is USER_END - USER_BASE; a ROM that fits it lies inside memory, where a write of bytes is read
back and leaves the others alone. -/
theorem installRomCopiesOrRejects : Obligations.InstallRomCopiesOrRejects := by
  intro s bs hcfg hmem
  obtain ⟨-, -, -, hbase, hend, -⟩ := config_wf_bounds hcfg
  refine ⟨fun hun => hostInstallRom_of_uninitialized hun bs, fun hinit hlarge => ?_, fun hinit hfit => ?_⟩
  · exact hostInstallRom_of_tooLarge hinit (Nat.sub_lt_left_of_lt_add hbase hlarge)
  · refine ⟨_, hostInstallRom_eq_ok.2 ⟨hinit, Nat.le_sub_of_add_le' hfit, rfl⟩, fun k b hk => ?_, fun a ha => ?_, rfl, rfl⟩
    · obtain ⟨hlt, hb⟩ := List.getElem?_eq_some_iff.1 hk
      exact (Memory.read_writeBytes_in hmem userBase bs (hfit.trans hend) k hlt).trans hb
    · exact s.mem.read_writeBytes_out userBase bs ha

end Sys2Proof.Machine
end

section
/-! SUPPORT. Which configurations are legal, what becomes of an illegal one, and the one reset state (00_scope.md R9;
70_reset_and_hazards.md R250). -/

namespace Sys2Proof

/-- Where neither range is empty and both begin before the other ends, the later of the two begins is in both. -/
theorem disjointRanges_iff (a b c d : Nat) :
    disjointRanges a b c d = true ↔ ∀ x, ¬((a ≤ x ∧ x < b) ∧ (c ≤ x ∧ x < d)) := by
  simp only [disjointRanges, Bool.or_eq_true, decide_eq_true_eq]
  refine ⟨fun h x hx => by omega, fun h => ?_⟩
  have hlater := h (max a c)
  omega

theorem Config.regionsDisjoint_iff (c : Config) :
    c.regionsDisjoint = true ↔ ∀ a : Nat,
      ¬((c.fontBase ≤ a ∧ a < c.fontEnd) ∧ (userBase ≤ a ∧ a < c.userEnd)) ∧
      ¬((c.fontBase ≤ a ∧ a < c.fontEnd) ∧ (c.stackLo ≤ a ∧ a < c.stackTop)) ∧
      ¬((userBase ≤ a ∧ a < c.userEnd) ∧ (c.stackLo ≤ a ∧ a < c.stackTop)) := by
  simp only [Config.regionsDisjoint, Bool.and_eq_true, disjointRanges_iff, forall_and, and_assoc]

/-- Legality is the bounds of R9 and the disjointness of the three regions. -/
theorem Config.wf_iff (c : Config) :
    c.wf = true ↔
      c.stackLo ≤ c.stackTop ∧ c.stackTop ≤ memSize ∧ (c.stackTop - c.stackLo) % 2 = 0 ∧ userBase ≤ c.userEnd ∧
      c.userEnd ≤ memSize ∧ c.fontEnd ≤ memSize ∧ c.regionsDisjoint = true := by
  simp only [Config.wf, Config.stackInMemory, Config.stackEven, Config.userInMemory, Config.fontInMemory,
    Bool.and_eq_true, decide_eq_true_eq, and_assoc]

/-- The spec's reference configuration is legal (92_eei_decisions.md D33). -/
theorem Config.ref_wf : Config.ref.wf = true := by decide

end Sys2Proof

namespace Sys2Proof.Machine

/-! ### An illegal configuration -/

theorem step_of_badConfiguration {s : State} (hcfg : s.cfg.wf = false) : step s = .refused .badConfiguration := by
  rw [step, cycle, hcfg]
  rfl

theorem hostInit_of_badConfiguration {s : State} (hcfg : s.cfg.wf = false) (v : Version) (p : UnknownOpcodePolicy) :
    hostInit s v p = .error .badConfiguration := by
  rw [hostInit, hcfg]
  rfl

/-- Settles O12: legality is R9's bounds with no address in two regions; the step and Init check it before anything else. -/
theorem illFormedConfigurationIsRefused : Obligations.IllFormedConfigurationIsRefused := by
  intro c
  refine ⟨?legal, ?refused⟩
  case legal =>
    rw [Config.wf_iff, Config.regionsDisjoint_iff]
    rfl
  case refused =>
    rintro s rfl hcfg
    exact ⟨step_of_badConfiguration hcfg, hostInit_of_badConfiguration hcfg⟩

/-! ### A stack pointer outside memory (log 6) -/

theorem exec_call_outside {s : State} (nnn : Addr12) (hroom : s.cfg.stackLo + 2 ≤ s.sp.toNat)
    (hout : memSize < s.sp.toNat) : exec (.call nnn) s = .fault .addressOutsideMemory :=
  (if_neg hroom.not_gt).trans (if_pos hout)

theorem exec_ret_outside {s : State} (hslot : s.sp.toNat + 2 ≤ s.cfg.stackTop) (hout : memSize < s.sp.toNat + 2) :
    exec .ret s = .fault .addressOutsideMemory :=
  (if_neg hslot.not_gt).trans (if_pos hout)

/-- Settles O20: past its stack check each of the two stops outside memory; under the invariant a running state's stack is
inside memory, where every instruction completes. -/
theorem stackOutsideMemoryStops : Obligations.StackOutsideMemoryStops := by
  refine ⟨fun s nnn => exec_call_outside nnn, fun s => exec_ret_outside, fun s i hinv hrun hstop => ?_⟩
  obtain ⟨t, ht⟩ := exec_completes hinv.config (hinv.stack (by simp [hrun])) i
  cases ht.symm.trans hstop

/-! ### RND -/

/-- RND stores the byte drawn, masked (42_alu.md R143). -/
theorem State.completed_rnd_getV (s : State) (x : Reg) (kk : Byte) :
    (s.completed (.rnd x kk)).getV x = Config.draw s.drawIndex &&& kk := s.setV_getV_self x _

/-- Settles O25: AND works bit by bit, and 0xFF is its neutral element. -/
theorem rndMasksAFreshDraw : Obligations.RndMasksAFreshDraw := by
  intro s x kk
  refine ⟨wordXKK_toNat _ x kk, s.completed (.rnd x kk), rfl, fun b => ?bits, fun b hb => ?zero, ?all,
    s.completed_sameRegsBut (.rnd x kk), rfl⟩
  case bits => rw [s.completed_rnd_getV, BitVec.getLsbD_and]
  case zero => rw [s.completed_rnd_getV, BitVec.getLsbD_and, hb, Bool.and_false]
  case all =>
    rintro rfl
    exact (s.completed_rnd_getV x _).trans BitVec.and_allOnes

/-! ### The reset state (log 1, log 2) -/

/-- Settles O50: the reset state is by definition what Init leaves under REF, which Init accepts. -/
theorem resetIsInitUnderRef : Obligations.ResetIsInitUnderRef :=
  ⟨hostInit_eq_ok.2 ⟨Config.ref_wf, rfl⟩, rfl, State.afterInit_sp_toNat .chip8 .skipAndReport 0 Config.ref_wf, rfl⟩

/-- Settles O54: what Init leaves under a legal configuration meets the invariant. -/
theorem invariantAtReset : Obligations.InvariantAtReset := .afterInit Config.ref_wf .chip8 .skipAndReport 0

end Sys2Proof.Machine
end
